-- ==== Sys2Proof/Word.lean ====
section
/-! DEFINITION. The word types of the machine and the four access sizes (00_scope.md R8, R9, R12). -/

namespace Sys2Proof

/-- A byte is 8 bits (00_scope.md R12). -/
abbrev Byte := BitVec 8

/-- A general-purpose register, the flags register or `rip` (00_scope.md R8, 45_reference_consumer.md R129). -/
abbrev Word := BitVec 64

/-- A guest address: a code address or a fault address (45_reference_consumer.md R129, R130). -/
abbrev Addr := BitVec 64

/-- The access sizes 1, 2, 4 and 8 bytes, and no other (00_scope.md R9). -/
inductive Size where
  | b1
  | b2
  | b4
  | b8
  deriving DecidableEq, Repr

end Sys2Proof
end

