-- ==== Sys2Proof/Machine/Flags.lean ====
section
/-! DEFINITION. The flags ALU `TEST8FLAGS` (43_test.md R118 to R128) and the merge of its output into `rflags`
(45_reference_consumer.md R138). -/

namespace Sys2Proof.Machine

/-- The flags-register value with the named bits (10_state.md R23): CF bit 0, bit 1 always 1 (43_test.md R125), PF bit 2, AF
bit 4, ZF bit 6, SF bit 7, OF bit 11, every other bit 0 (R126). -/
def flagsWord (sf zf af pf cf of : Bool) : Word :=
  ((BitVec.ofBool sf).setWidth 64 <<< 7) ||| ((BitVec.ofBool zf).setWidth 64 <<< 6) |||
    ((BitVec.ofBool af).setWidth 64 <<< 4) ||| ((BitVec.ofBool pf).setWidth 64 <<< 2) |||
    (1#64 <<< 1) ||| (BitVec.ofBool cf).setWidth 64 ||| ((BitVec.ofBool of).setWidth 64 <<< 11)

/-- The number of 1 bits of a byte. -/
def popcount8 (r : Byte) : Nat :=
  (r.getLsbD 0).toNat + (r.getLsbD 1).toNat + (r.getLsbD 2).toNat + (r.getLsbD 3).toNat +
    (r.getLsbD 4).toNat + (r.getLsbD 5).toNat + (r.getLsbD 6).toNat + (r.getLsbD 7).toNat

/-- ZF: the result is 0 (43_test.md R120). -/
def zeroFlag (r : Byte) : Bool :=
  r == 0#8

/-- SF: bit 7 of the result (43_test.md R121). -/
def signFlag (r : Byte) : Bool :=
  r.getLsbD 7

/-- PF: an even number of 1 bits among the result's eight (43_test.md R122). -/
def parityFlag (r : Byte) : Bool :=
  popcount8 r % 2 == 0

/-- `TEST8FLAGS(a, b)` (43_test.md R118): the flags of `a AND b` (R119), with CF, OF (R123) and AF (R124, 90_conflicts.md
C5) clear. -/
def test8flags (a b : Byte) : Word :=
  flagsWord (signFlag (a &&& b)) (zeroFlag (a &&& b)) false (parityFlag (a &&& b)) false false

/-- The six status flags CF, PF, AF, ZF, SF and OF (45_reference_consumer.md R138). -/
def statusMask : Word := 0x8D5#64

/-- `MERGE(old, f)` (45_reference_consumer.md R138): the six status flags from `f`, every other bit kept. -/
def mergeFlags (old f : Word) : Word :=
  (old &&& ~~~statusMask) ||| (f &&& statusMask)

end Sys2Proof.Machine
end

