-- ==== Sys2Proof/Config.lean ====
section
/-! DEFINITION. The implementation parameters of 00_scope.md section 3, and the one value the model fixes for a byte
nothing has written. -/

namespace Sys2Proof.Config

/-- `MAX_INST_LEN` (00_scope.md R6). -/
abbrev maxInstLen : Nat := 15

/-- `NUM_GPR` (00_scope.md R7). -/
abbrev numGpr : Nat := 16

/-- `LEN_WIDTH`: the declared length is an unsigned number of this many bits (00_scope.md R11). -/
abbrev lenWidth : Nat := 32

/-- What a byte that no entry of a memory lists reads as, in the guest's code and in a RAM-like device.
DESIGN CHOICE, unsafe (log 7): the spec gives no initial contents (70_reset_and_hazards.md R166); its test programs
take 0 for every byte not stated (95_test_vectors.md section 3). -/
def unlistedByte : Byte := 0

end Sys2Proof.Config
end

