-- ==== Sys2Proof/Syntax.lean ====
section
/-! DEFINITION. The instructions the FTDU accepts, one constructor per form of 30_encoding.md R62, with every operand
bit of their encodings; the names of the registers; the six typed failures. -/

namespace Sys2Proof

/-- The 16 general-purpose registers, by their 64-bit names (10_state.md R19). -/
inductive Reg where
  | rax | rcx | rdx | rbx | rsp | rbp | rsi | rdi
  | r8 | r9 | r10 | r11 | r12 | r13 | r14 | r15
  deriving DecidableEq, Repr

/-- A register reference: the identity of one of the 17 snapshot slots (10_state.md R18, R22). -/
inductive RegRef where
  | gpr (r : Reg)
  | flags
  deriving DecidableEq, Repr

/-- The four low bits of a REX byte (30_encoding.md R55): `w` operand size 64, `r` extends ModRM.reg, `x` extends
SIB.index, `b` extends ModRM.rm or SIB.base. The last two change no decision of the FTDU (R72). -/
structure Rex where
  w : Bool
  r : Bool
  x : Bool
  b : Bool
  deriving DecidableEq, Repr

/-- The SIB byte (30_encoding.md R68). -/
structure Sib where
  scale : BitVec 2
  index : BitVec 3
  base : BitVec 3
  deriving DecidableEq, Repr

/-- The displacement field: absent, 1 byte or 4 bytes, little-endian and signed (30_encoding.md R69, R70). -/
inductive Disp where
  | none
  | d8 (v : BitVec 8)
  | d32 (v : BitVec 32)
  deriving DecidableEq, Repr

/-- The memory operand as encoded: ModRM.mod, ModRM.rm, the optional SIB byte and the displacement (30_encoding.md R64 to
R70). It says where the access goes only to a reader: the FTDU computes no address (R71). -/
structure MemOperand where
  mod : BitVec 2
  rm : BitVec 3
  sib : Option Sib
  disp : Disp
  deriving DecidableEq, Repr

/-- The accepted instructions (30_encoding.md R62). `rex` is the REX prefix if one is present; `reg` is the register
operand `REX.R : ModRM.reg` (R75); `m` is the memory operand; `imm` is the immediate as encoded (R73). -/
inductive Instr where
  /-- `movb %r8, m8` (41_mov.md R100). -/
  | movM8R8 (rex : Option Rex) (reg : Reg) (m : MemOperand)
  /-- `movw %r16, m16` (41_mov.md R101). -/
  | movM16R16 (rex : Option Rex) (reg : Reg) (m : MemOperand)
  /-- `movl %r32, m32` (41_mov.md R102). -/
  | movM32R32 (rex : Option Rex) (reg : Reg) (m : MemOperand)
  /-- `movq %r64, m64` (41_mov.md R103). -/
  | movM64R64 (rex : Option Rex) (reg : Reg) (m : MemOperand)
  /-- `movb m8, %r8` (41_mov.md R104). -/
  | movR8M8 (rex : Option Rex) (reg : Reg) (m : MemOperand)
  /-- `movw m16, %r16` (41_mov.md R105). -/
  | movR16M16 (rex : Option Rex) (reg : Reg) (m : MemOperand)
  /-- `movl m32, %r32` (41_mov.md R106). -/
  | movR32M32 (rex : Option Rex) (reg : Reg) (m : MemOperand)
  /-- `movq m64, %r64` (41_mov.md R107). -/
  | movR64M64 (rex : Option Rex) (reg : Reg) (m : MemOperand)
  /-- `movb $i8, m8` (41_mov.md R108). -/
  | movM8I8 (rex : Option Rex) (m : MemOperand) (imm : BitVec 8)
  /-- `movw $i16, m16` (41_mov.md R109). -/
  | movM16I16 (rex : Option Rex) (m : MemOperand) (imm : BitVec 16)
  /-- `movl $i32, m32` (41_mov.md R110). -/
  | movM32I32 (rex : Option Rex) (m : MemOperand) (imm : BitVec 32)
  /-- `movq $i32, m64` (41_mov.md R111). -/
  | movM64I32 (rex : Option Rex) (m : MemOperand) (imm : BitVec 32)
  /-- `movzbw m8, %r16` (42_movzx.md R112). -/
  | movzxR16M8 (rex : Option Rex) (reg : Reg) (m : MemOperand)
  /-- `movzbl m8, %r32` (42_movzx.md R113). -/
  | movzxR32M8 (rex : Option Rex) (reg : Reg) (m : MemOperand)
  /-- `movzbq m8, %r64` (42_movzx.md R114). -/
  | movzxR64M8 (rex : Option Rex) (reg : Reg) (m : MemOperand)
  /-- `movzwl m16, %r32` (42_movzx.md R115). -/
  | movzxR32M16 (rex : Option Rex) (reg : Reg) (m : MemOperand)
  /-- `movzwq m16, %r64` (42_movzx.md R116). -/
  | movzxR64M16 (rex : Option Rex) (reg : Reg) (m : MemOperand)
  /-- `testb $i8, m8` (43_test.md R117). -/
  | testM8I8 (rex : Option Rex) (m : MemOperand) (imm : BitVec 8)
  deriving DecidableEq, Repr

/-- The six typed failures of a `DECODE` (60_exceptions.md R145). -/
inductive Failure where
  /-- Malformed call: null or zero-length buffer (R146). -/
  | invalidInput
  /-- Declared length over the architectural maximum (R147). -/
  | lengthExceeded
  /-- Buffer truncated relative to what the encoding requires (R148). -/
  | outOfRange
  /-- Outside the supported opcode and prefix subset (R149). -/
  | unsupported
  /-- Internally contradictory prefix combination (R150). -/
  | badState
  /-- Reserved ModRM field misuse (R151). -/
  | invalidArgs
  deriving DecidableEq, Repr

/-- A response: `Ok(value)` or `Err(code)`, and on a failure nothing but its code (10_state.md R29). -/
abbrev Response (α : Type) := Except Failure α

end Sys2Proof
end

