-- ==== Sys2Proof/Decode.lean ====
section
/-! DEFINITION. From bytes to an instruction or a typed failure (30_encoding.md, 40_decoder.md), stage by stage in the
order of R84, each stage taking its bytes from the front of the list of bytes that exist; and the encoder. -/

namespace Sys2Proof

/-! ## Register index table -/

/-- The index of a register (10_state.md R19). -/
def Reg.index : Reg → Fin 16
  | .rax => 0
  | .rcx => 1
  | .rdx => 2
  | .rbx => 3
  | .rsp => 4
  | .rbp => 5
  | .rsi => 6
  | .rdi => 7
  | .r8 => 8
  | .r9 => 9
  | .r10 => 10
  | .r11 => 11
  | .r12 => 12
  | .r13 => 13
  | .r14 => 14
  | .r15 => 15

/-- The constant lookup table from a 4-bit index to a register (10_state.md R19, R34). -/
def regTable : Vector Reg 16 :=
  #v[.rax, .rcx, .rdx, .rbx, .rsp, .rbp, .rsi, .rdi, .r8, .r9, .r10, .r11, .r12, .r13, .r14, .r15]

/-- The register of a 4-bit index: every index names one (10_state.md R19). -/
def Reg.ofIndex (i : BitVec 4) : Reg :=
  regTable[i.toNat]'(i.isLt)

/-- `regidx = (REX.R : reg)` (30_encoding.md R75). -/
def Reg.ofField (r : Bool) (field : BitVec 3) : Reg :=
  Reg.ofIndex (BitVec.ofBool r ++ field)

/-- The three bits of a register's index that stand in ModRM.reg (30_encoding.md R75). -/
def Reg.field (r : Reg) : BitVec 3 :=
  BitVec.ofNat 3 r.index.val

/-- The bit of a register's index that stands in REX.R (30_encoding.md R75). -/
def Reg.high (r : Reg) : Bool :=
  decide (8 ≤ r.index.val)

/-- The slot number of a register reference: 0 to 15, and 16 for the flags register (10_state.md R18, R22). -/
def RegRef.slot : RegRef → Nat
  | .gpr r => r.index.val
  | .flags => 16

/-- Without a REX prefix the 8-bit encodings 4 to 7 name AH, CH, DH, BH: bits 15 to 8 of these registers (10_state.md
R20). The FTDU refuses them (30_encoding.md R76). -/
def legacyHighByte (field : BitVec 3) : Option Reg :=
  if field = 4 then some .rax
  else if field = 5 then some .rcx
  else if field = 6 then some .rdx
  else if field = 7 then some .rbx
  else none

/-! ## The REX, ModRM and SIB bytes -/

/-- A byte whose top nibble is `0b0100` (30_encoding.md R54). -/
def isRexByte (b : Byte) : Bool :=
  b.extractLsb' 4 4 == 0b0100#4

/-- The bits W, R, X, B of a REX byte (30_encoding.md R55). -/
def Rex.ofByte (b : Byte) : Rex where
  w := b.getLsbD 3
  r := b.getLsbD 2
  x := b.getLsbD 1
  b := b.getLsbD 0

/-- The REX byte of four bits (30_encoding.md R55). -/
def Rex.toByte (p : Rex) : Byte :=
  0b0100#4 ++ BitVec.ofBool p.w ++ BitVec.ofBool p.r ++ BitVec.ofBool p.x ++ BitVec.ofBool p.b

/-- REX.W, 0 when no REX is present (30_encoding.md R54). -/
def rexW : Option Rex → Bool
  | none => false
  | some p => p.w

/-- REX.R, 0 when no REX is present (30_encoding.md R54, R75). -/
def rexR : Option Rex → Bool
  | none => false
  | some p => p.r

/-- REX.X, 0 when no REX is present. -/
def rexX : Option Rex → Bool
  | none => false
  | some p => p.x

/-- REX.B, 0 when no REX is present. -/
def rexB : Option Rex → Bool
  | none => false
  | some p => p.b

/-- The three fields of a ModRM byte (30_encoding.md R64). -/
structure ModRM where
  mod : BitVec 2
  reg : BitVec 3
  rm : BitVec 3
  deriving DecidableEq, Repr

/-- `mod = modrm[7:6]`, `reg = modrm[5:3]`, `rm = modrm[2:0]` (30_encoding.md R64). -/
def ModRM.ofByte (b : Byte) : ModRM where
  mod := b.extractLsb' 6 2
  reg := b.extractLsb' 3 3
  rm := b.extractLsb' 0 3

/-- The ModRM byte of its three fields (30_encoding.md R64). -/
def ModRM.toByte (m : ModRM) : Byte :=
  m.mod ++ m.reg ++ m.rm

/-- `scale = sib[7:6]`, `index = sib[5:3]`, `base = sib[2:0]` (30_encoding.md R68). -/
def Sib.ofByte (b : Byte) : Sib where
  scale := b.extractLsb' 6 2
  index := b.extractLsb' 3 3
  base := b.extractLsb' 0 3

/-- The SIB byte of its three fields (30_encoding.md R68). -/
def Sib.toByte (s : Sib) : Byte :=
  s.scale ++ s.index ++ s.base

/-! ## Sizes of the optional fields -/

/-- `nsib`: a SIB byte follows ModRM if and only if `mod ≠ 0b11` and `rm = 0b100` (30_encoding.md R67, R79). -/
def sibSize (mod : BitVec 2) (rm : BitVec 3) : Nat :=
  if mod ≠ 0b11#2 ∧ rm = 0b100#3 then 1 else 0

/-- `ndisp`, the displacement size in bytes, from mod, rm and the SIB base if there is one (30_encoding.md R69). -/
def dispSize (mod : BitVec 2) (rm : BitVec 3) (base : Option (BitVec 3)) : Nat :=
  if mod = 0b01#2 then 1
  else if mod = 0b10#2 then 4
  else if rm = 0b101#3 ∨ base = some 0b101#3 then 4
  else 0

/-- The consumed length of a form (30_encoding.md R79): `h66 + rex_present + nop + 1 + nsib + ndisp + nimm`. -/
def instLength (h66 : Bool) (rex : Option Rex) (nop : Nat) (m : MemOperand) (nimm : Nat) : Nat :=
  h66.toNat + rex.isSome.toNat + nop + 1 + sibSize m.mod m.rm +
    dispSize m.mod m.rm (m.sib.map Sib.base) + nimm

/-- The number of buffer bytes an instruction occupies (10_state.md R27, 30_encoding.md R79). -/
def Instr.length : Instr → Nat
  | .movM8R8 rex _ m => instLength false rex 1 m 0
  | .movM16R16 rex _ m => instLength true rex 1 m 0
  | .movM32R32 rex _ m => instLength false rex 1 m 0
  | .movM64R64 rex _ m => instLength false rex 1 m 0
  | .movR8M8 rex _ m => instLength false rex 1 m 0
  | .movR16M16 rex _ m => instLength true rex 1 m 0
  | .movR32M32 rex _ m => instLength false rex 1 m 0
  | .movR64M64 rex _ m => instLength false rex 1 m 0
  | .movM8I8 rex m _ => instLength false rex 1 m 1
  | .movM16I16 rex m _ => instLength true rex 1 m 2
  | .movM32I32 rex m _ => instLength false rex 1 m 4
  | .movM64I32 rex m _ => instLength false rex 1 m 4
  | .movzxR16M8 rex _ m => instLength true rex 2 m 0
  | .movzxR32M8 rex _ m => instLength false rex 2 m 0
  | .movzxR64M8 rex _ m => instLength false rex 2 m 0
  | .movzxR32M16 rex _ m => instLength false rex 2 m 0
  | .movzxR64M16 rex _ m => instLength false rex 2 m 0
  | .testM8I8 rex m _ => instLength false rex 1 m 1

/-! ## Stages 1 to 3: the prefixes and the opcode -/

/-- The opcodes of the one-byte and two-byte maps (30_encoding.md R59, R60). -/
inductive Opcode where
  | op88
  | op89
  | op8A
  | op8B
  | opC6
  | opC7
  | opF6
  | op0FB6
  | op0FB7
  deriving DecidableEq, Repr

/-- Stage 1: `0x66` is a prefix only as the first byte (30_encoding.md R53, 40_decoder.md R87). -/
def takeOpsize : List Byte → Bool × List Byte
  | [] => (false, [])
  | b :: bs => if b = 0x66#8 then (true, bs) else (false, b :: bs)

/-- Stage 2: the optional REX prefix and the byte after it, which must not be another (30_encoding.md R54, R56,
40_decoder.md R88). It answers the REX prefix, the opcode byte and the bytes left. -/
def takeRex : List Byte → Response (Option Rex × Byte × List Byte)
  | [] => .error .outOfRange
  | b :: bs =>
    if isRexByte b then
      match bs with
      | [] => .error .outOfRange
      | op :: bs => if isRexByte op then .error .unsupported else .ok (some (Rex.ofByte b), op, bs)
    else .ok (none, b, bs)

/-- Stage 2, last check: `0x66` with REX.W = 1 is refused whatever the opcode (30_encoding.md R57, 90_conflicts.md C2). -/
def checkSizeConflict (h66 : Bool) (rex : Option Rex) : Response Unit :=
  if h66 && rexW rex then .error .unsupported else .ok ()

/-- The one-byte opcode map (30_encoding.md R59). -/
def oneByteOpcode (op : Byte) : Option Opcode :=
  if op = 0x88#8 then some .op88
  else if op = 0x89#8 then some .op89
  else if op = 0x8A#8 then some .op8A
  else if op = 0x8B#8 then some .op8B
  else if op = 0xC6#8 then some .opC6
  else if op = 0xC7#8 then some .opC7
  else if op = 0xF6#8 then some .opF6
  else none

/-- The two-byte opcode map, after `0x0F` (30_encoding.md R60). -/
def twoByteOpcode (op2 : Byte) : Option Opcode :=
  if op2 = 0xB6#8 then some .op0FB6
  else if op2 = 0xB7#8 then some .op0FB7
  else none

/-- Stage 3: the opcode; every other byte is `Unsupported` before ModRM is needed (30_encoding.md R59 to R61,
40_decoder.md R89). -/
def takeOpcode (op : Byte) (bs : List Byte) : Response (Opcode × List Byte) :=
  if op = 0x0F#8 then
    match bs with
    | [] => .error .outOfRange
    | op2 :: bs =>
      match twoByteOpcode op2 with
      | some opc => .ok (opc, bs)
      | none => .error .unsupported
  else
    match oneByteOpcode op with
    | some opc => .ok (opc, bs)
    | none => .error .unsupported

/-- Stage 3b: the operand-size prefix against the opcode (30_encoding.md R63, 40_decoder.md R90). -/
def checkOpsize (h66 : Bool) (opc : Opcode) : Response Unit :=
  if h66 then
    match opc with
    | .opF6 | .op0FB7 => .error .badState
    | .op88 | .op8A | .opC6 => .error .unsupported
    | .op89 | .op8B | .opC7 | .op0FB6 => .ok ()
  else .ok ()

/-! ## Stages 4 to 8 -/

/-- The opcodes whose ModRM.reg must be 0 (30_encoding.md R66). -/
def Opcode.fixedReg : Opcode → Bool
  | .opC6 | .opC7 | .opF6 => true
  | .op88 | .op89 | .op8A | .op8B | .op0FB6 | .op0FB7 => false

/-- Stage 4: ModRM; `mod = 0b11` is refused before the reg field is checked (30_encoding.md R65, R66, 40_decoder.md
R91). -/
def takeModRM (opc : Opcode) : List Byte → Response (ModRM × List Byte)
  | [] => .error .outOfRange
  | b :: bs =>
    if (ModRM.ofByte b).mod = 0b11#2 then .error .unsupported
    else if opc.fixedReg && (ModRM.ofByte b).reg != 0#3 then .error .invalidArgs
    else .ok (ModRM.ofByte b, bs)

/-- Stage 5: the SIB byte when `rm = 0b100`, with `mod ≠ 0b11` already known (30_encoding.md R67, 40_decoder.md R92). -/
def takeSib (rm : BitVec 3) (bs : List Byte) : Response (Option Sib × List Byte) :=
  if rm = 0b100#3 then
    match bs with
    | [] => .error .outOfRange
    | b :: bs => .ok (some (Sib.ofByte b), bs)
  else .ok (none, bs)

/-- Stage 6: the displacement of 0, 1 or 4 bytes, little-endian (20_memory.md R41, 40_decoder.md R93). -/
def takeDisp : Nat → List Byte → Response (Disp × List Byte)
  | 0, bs => .ok (.none, bs)
  | 1, b :: bs => .ok (.d8 b, bs)
  | 4, b0 :: b1 :: b2 :: b3 :: bs => .ok (.d32 (b3 ++ b2 ++ b1 ++ b0), bs)
  | _, _ => .error .outOfRange

/-- `nimm`, the immediate size in bytes (30_encoding.md R73). -/
def immSize (opc : Opcode) (h66 : Bool) : Nat :=
  match opc with
  | .opC6 | .opF6 => 1
  | .opC7 => if h66 then 2 else 4
  | .op88 | .op89 | .op8A | .op8B | .op0FB6 | .op0FB7 => 0

/-- Stage 7: the immediate, little-endian and zero-extended to 64 bits; 0 when there is none (30_encoding.md R74,
40_decoder.md R94). -/
def takeImm : Nat → List Byte → Response (Word × List Byte)
  | 0, bs => .ok (0#64, bs)
  | 1, b :: bs => .ok (b.setWidth 64, bs)
  | 2, b0 :: b1 :: bs => .ok ((b1 ++ b0).setWidth 64, bs)
  | 4, b0 :: b1 :: b2 :: b3 :: bs => .ok ((b3 ++ b2 ++ b1 ++ b0).setWidth 64, bs)
  | _, _ => .error .outOfRange

/-- Stage 8: the 8-bit register operand of `0x88` and `0x8A` is no legacy high byte (30_encoding.md R76, 40_decoder.md
R95). -/
def checkHighByte (opc : Opcode) (rex : Option Rex) (field : BitVec 3) : Response Unit :=
  match opc with
  | .op88 | .op8A =>
    if rex.isNone && (legacyHighByte field).isSome then .error .unsupported else .ok ()
  | .op89 | .op8B | .opC6 | .opC7 | .opF6 | .op0FB6 | .op0FB7 => .ok ()

/-- The instruction of an opcode and its prefixes (30_encoding.md R62; the combinations that stages 2 and 3b refuse do not
reach it). -/
def form (opc : Opcode) (h66 : Bool) (rex : Option Rex) (field : BitVec 3) (m : MemOperand) (imm : Word) : Instr :=
  match opc with
  | .op88 => .movM8R8 rex (Reg.ofField (rexR rex) field) m
  | .op89 =>
    if h66 then .movM16R16 rex (Reg.ofField (rexR rex) field) m
    else if rexW rex then .movM64R64 rex (Reg.ofField (rexR rex) field) m
    else .movM32R32 rex (Reg.ofField (rexR rex) field) m
  | .op8A => .movR8M8 rex (Reg.ofField (rexR rex) field) m
  | .op8B =>
    if h66 then .movR16M16 rex (Reg.ofField (rexR rex) field) m
    else if rexW rex then .movR64M64 rex (Reg.ofField (rexR rex) field) m
    else .movR32M32 rex (Reg.ofField (rexR rex) field) m
  | .opC6 => .movM8I8 rex m (imm.setWidth 8)
  | .opC7 =>
    if h66 then .movM16I16 rex m (imm.setWidth 16)
    else if rexW rex then .movM64I32 rex m (imm.setWidth 32)
    else .movM32I32 rex m (imm.setWidth 32)
  | .op0FB6 =>
    if h66 then .movzxR16M8 rex (Reg.ofField (rexR rex) field) m
    else if rexW rex then .movzxR64M8 rex (Reg.ofField (rexR rex) field) m
    else .movzxR32M8 rex (Reg.ofField (rexR rex) field) m
  | .op0FB7 =>
    if rexW rex then .movzxR64M16 rex (Reg.ofField (rexR rex) field) m
    else .movzxR32M16 rex (Reg.ofField (rexR rex) field) m
  | .opF6 => .testM8I8 rex m (imm.setWidth 8)

/-- Stages 1 to 8 on the bytes that exist: the instruction and the bytes after it, or the first failure in stage order
(40_decoder.md R84, 60_exceptions.md R153). Total on any bytes; bytes that do not exist are absent, not zero
(20_memory.md R39). -/
def decodeInstr (bytes : List Byte) : Response (Instr × List Byte) := do
  let (h66, bs) := takeOpsize bytes
  let (rex, op, bs) ← takeRex bs
  checkSizeConflict h66 rex
  let (opc, bs) ← takeOpcode op bs
  checkOpsize h66 opc
  let (modrm, bs) ← takeModRM opc bs
  let (sib, bs) ← takeSib modrm.rm bs
  let (disp, bs) ← takeDisp (dispSize modrm.mod modrm.rm (sib.map Sib.base)) bs
  let (imm, bs) ← takeImm (immSize opc h66) bs
  checkHighByte opc rex modrm.reg
  return (form opc h66 rex modrm.reg ⟨modrm.mod, modrm.rm, sib, disp⟩ imm, bs)

/-- The inputs of a `DECODE` request that its response depends on (10_state.md R17). The snapshot reference is not among
them: the block uses only its identity (R21). -/
structure Request where
  present : Bool
  len : BitVec Config.lenWidth
  buf : Vector Byte 15
  deriving DecidableEq, Repr

/-- The bytes of the buffer that exist, `buf[0..len-1]` (20_memory.md R38, R39). -/
def Request.bytes (q : Request) : List Byte :=
  q.buf.toList.take q.len.toNat

/-- Stage 0, call validation (40_decoder.md R85, R86), then stages 1 to 8. -/
def decodeRequest (q : Request) : Response Instr :=
  if q.present = false ∨ q.len = 0 then .error .invalidInput
  else if q.len.toNat > Config.maxInstLen then .error .lengthExceeded
  else (decodeInstr q.bytes).map Prod.fst

/-! ## The encoder -/

/-- The `0x66` prefix, when the form takes it (30_encoding.md R53). -/
def opsizeBytes (h66 : Bool) : List Byte :=
  if h66 then [0x66#8] else []

/-- The REX prefix, when present (30_encoding.md R54). -/
def rexBytes : Option Rex → List Byte
  | none => []
  | some p => [p.toByte]

/-- The SIB byte, when present (30_encoding.md R67). -/
def sibBytes : Option Sib → List Byte
  | none => []
  | some s => [s.toByte]

/-- The four bytes of a 32-bit field, least significant first (20_memory.md R41). -/
def bytes32 (v : BitVec 32) : List Byte :=
  [v.extractLsb' 0 8, v.extractLsb' 8 8, v.extractLsb' 16 8, v.extractLsb' 24 8]

/-- The two bytes of a 16-bit field, least significant first (20_memory.md R41). -/
def bytes16 (v : BitVec 16) : List Byte :=
  [v.extractLsb' 0 8, v.extractLsb' 8 8]

/-- The displacement bytes (30_encoding.md R69). -/
def dispBytes : Disp → List Byte
  | .none => []
  | .d8 v => [v]
  | .d32 v => bytes32 v

/-- The byte sequence of 30_encoding.md R51: `[66] [REX] opcode ModRM [SIB] [disp] [imm]`. -/
def assemble (h66 : Bool) (rex : Option Rex) (opcode : List Byte) (field : BitVec 3) (m : MemOperand)
    (imm : List Byte) : List Byte :=
  opsizeBytes h66 ++ (rexBytes rex ++ (opcode ++ (ModRM.toByte ⟨m.mod, field, m.rm⟩ ::
    (sibBytes m.sib ++ (dispBytes m.disp ++ imm)))))

/-- The bytes of an instruction (30_encoding.md R62, opcode_table.json). -/
def encode : Instr → List Byte
  | .movM8R8 rex reg m => assemble false rex [0x88#8] reg.field m []
  | .movM16R16 rex reg m => assemble true rex [0x89#8] reg.field m []
  | .movM32R32 rex reg m => assemble false rex [0x89#8] reg.field m []
  | .movM64R64 rex reg m => assemble false rex [0x89#8] reg.field m []
  | .movR8M8 rex reg m => assemble false rex [0x8A#8] reg.field m []
  | .movR16M16 rex reg m => assemble true rex [0x8B#8] reg.field m []
  | .movR32M32 rex reg m => assemble false rex [0x8B#8] reg.field m []
  | .movR64M64 rex reg m => assemble false rex [0x8B#8] reg.field m []
  | .movM8I8 rex m imm => assemble false rex [0xC6#8] 0#3 m [imm]
  | .movM16I16 rex m imm => assemble true rex [0xC7#8] 0#3 m (bytes16 imm)
  | .movM32I32 rex m imm => assemble false rex [0xC7#8] 0#3 m (bytes32 imm)
  | .movM64I32 rex m imm => assemble false rex [0xC7#8] 0#3 m (bytes32 imm)
  | .movzxR16M8 rex reg m => assemble true rex [0x0F#8, 0xB6#8] reg.field m []
  | .movzxR32M8 rex reg m => assemble false rex [0x0F#8, 0xB6#8] reg.field m []
  | .movzxR64M8 rex reg m => assemble false rex [0x0F#8, 0xB6#8] reg.field m []
  | .movzxR32M16 rex reg m => assemble false rex [0x0F#8, 0xB7#8] reg.field m []
  | .movzxR64M16 rex reg m => assemble false rex [0x0F#8, 0xB7#8] reg.field m []
  | .testM8I8 rex m imm => assemble false rex [0xF6#8] 0#3 m [imm]

/-! ## The opcode table's words -/

/-- Byte `k` of an instruction whose bits are `w`: bits `8k+7` to `8k`, 0 at and above bit `nbits` (log 26). -/
def tableByte (nbits w k : Nat) : Byte :=
  if 8 * k < nbits then BitVec.ofNat 8 (w >>> (8 * k)) else 0#8

/-- The instruction the decoder reads from a word of the opcode table, laid out as bytes with the first at the lowest
index and zeros after it, in a full buffer of 15 bytes (log 26). -/
def decodeTableWord (nbits w : Nat) : Option Instr :=
  match decodeInstr ((List.range Config.maxInstLen).map (tableByte nbits w)) with
  | .ok (i, _) => some i
  | .error _ => none

end Sys2Proof
end

