-- ==== Sys2Proof/Machine/State.lean ====
section
/-! DEFINITION. The machine's state as plain data, its reset, and the reasons a step can stop. The FTDU holds no state of
its own (10_state.md R15); what is here is the reference consumer's state (45_reference_consumer.md R129) and the inputs
of the requests. -/

namespace Sys2Proof.Machine

/-- A byte memory over 64-bit addresses, in one canonical form (`Memory.wf`): addresses rising, and no entry equal to what
an unlisted address reads as. -/
abbrev Memory := List Host.Cell

/-- One request of the environment: the inputs of a `DECODE` other than the captured bytes (10_state.md R17), the trap's
fault address (45_reference_consumer.md R130), and the device's answer if the access turns out to be a read of an oracle
device, a free input (R139, log 8). THE MODEL'S CHOICE (log 31): `present` and `len` are any values, though R130 has
`buf_present = 1` in every step and R142 has `len = 15` unless stated. -/
structure Trap where
  present : Bool
  len : BitVec Config.lenWidth
  fa : Addr
  answer : Word
  deriving DecidableEq, Repr

/-- The parameter `DEVICE` (45_reference_consumer.md R139, log 8): what a read of the device returns. -/
inductive DeviceKind where
  /-- Whatever the request's `answer` says. -/
  | oracle
  /-- The bytes last written at the address, or the initial ones. -/
  | ram
  deriving DecidableEq, Repr

/-- The parameter `MISALIGNED` (20_memory.md R43, log 9): whether the device serves an access that is not aligned. -/
inductive MisalignedRule where
  | served
  | refused
  deriving DecidableEq, Repr

/-- A device access reads or writes. -/
inductive AccessKind where
  | read
  | write
  deriving DecidableEq, Repr

/-- One device access of exactly `size` bytes (45_reference_consumer.md R139); `value` is what was read or sent, zero above
`size` bytes. -/
structure DevAccess where
  kind : AccessKind
  addr : Addr
  size : Size
  value : Word
  deriving DecidableEq, Repr

/-- The emulated device: it answers reads and records writes (45_reference_consumer.md R129). `cells` holds the bytes last
written, `trace` the accesses made, newest first (log 19). -/
structure Device where
  kind : DeviceKind
  misaligned : MisalignedRule
  cells : Memory
  trace : List DevAccess
  deriving DecidableEq, Repr

/-- The state: the register snapshot `gpr` and `rflags` (10_state.md R18), `rip`, the device and `halted`
(45_reference_consumer.md R129), the guest's code (R142), the request in service and those to come (log 2). -/
structure State where
  gpr : Vector Word Config.numGpr
  rflags : Word
  rip : Word
  code : Memory
  dev : Device
  halted : Option Failure
  trap : Trap
  traps : List Trap
  deriving DecidableEq, Repr

/-- Why a step can stop with a fault. -/
inductive Fault where
  /-- Raised by `step` alone, in a state whose consumer has halted on the failure `e`: there is no further step
  (45_reference_consumer.md R130, R141). Safe: the spec gives no step to claim anything about (log 4). -/
  | halted (e : Failure)
  deriving DecidableEq, Repr

/-- Why a step can have no meaning in the model. -/
inductive Refusal where
  /-- Raised by an arm of `exec` alone, for an instruction with no meaning yet; none is left. Safe: nothing can be proved of
  it. -/
  | notModelled (mnemonic : String)
  /-- Raised by every form when the device refuses the access because it is not aligned: what the consumer then does is not
  in the spec (20_memory.md R43, parameter `MISALIGNED`). Safe: the hardware may go on where the model stops (log 9). -/
  | misalignedAccess
  /-- Raised by `applyRecord` alone, for a record that no `DECODE` returns: MOV_READ without a register or a destination
  size (10_state.md R26). Safe: no step reaches it (log 27). -/
  | malformedRecord
  deriving DecidableEq, Repr

/-- The state right after reset. The spec gives no reset value for any part of it (10_state.md R36,
70_reset_and_hazards.md R163, R166): every value here is a DESIGN CHOICE, unsafe (log 5, log 6), with bit 1 of `rflags` set
because it is 'reserved, reads 1' (10_state.md R23). -/
def State.reset : State where
  gpr := Vector.replicate Config.numGpr 0#64
  rflags := 0x2#64
  rip := 0#64
  code := []
  dev := { kind := .oracle, misaligned := .served, cells := [], trace := [] }
  halted := none
  trap := { present := false, len := 0, fa := 0#64, answer := 0#64 }
  traps := []

end Sys2Proof.Machine
end

