-- ==== Sys2Proof/Machine/Operands.lean ====
section
/-! DEFINITION. The operand forms: the narrow views of a register (10_state.md R20), reading and writing a register
through them (45_reference_consumer.md R132, R133), and the immediate a store sends (R135). -/

namespace Sys2Proof.Machine

/-- The number of bytes of an access size (00_scope.md R9). -/
def sizeBytes : Size → Nat
  | .b1 => 1
  | .b2 => 2
  | .b4 => 4
  | .b8 => 8

/-- Bits `8n-1:0` of a value, zero-extended to 64 bits: the 8-, 16-, 32- and 64-bit views (10_state.md R20). -/
def lowBytes (n : Size) (v : Word) : Word :=
  match n with
  | .b1 => (v.setWidth 8).setWidth 64
  | .b2 => (v.setWidth 16).setWidth 64
  | .b4 => (v.setWidth 32).setWidth 64
  | .b8 => v

/-- The register after a write of `n` bytes over `old` (45_reference_consumer.md R133): 8- and 16-bit writes keep the upper
bits, a 32-bit write clears them, a 64-bit write replaces the register. -/
def mergeView (n : Size) (old v : Word) : Word :=
  match n with
  | .b1 => old.extractLsb' 8 56 ++ v.setWidth 8
  | .b2 => old.extractLsb' 16 48 ++ v.setWidth 16
  | .b4 => (v.setWidth 32).setWidth 64
  | .b8 => v

/-- `IMMVAL(imm, s)` (45_reference_consumer.md R135): the low bytes of the record's immediate, but for 8 bytes its low 32
bits sign-extended. -/
def immVal (imm : Word) (n : Size) : Word :=
  match n with
  | .b1 => (imm.setWidth 8).setWidth 64
  | .b2 => (imm.setWidth 16).setWidth 64
  | .b4 => (imm.setWidth 32).setWidth 64
  | .b8 => (imm.setWidth 32).signExtend 64

/-- The 64-bit value of a general-purpose register. -/
def getGpr (r : Reg) (s : State) : Word :=
  s.gpr[r.index.val]'(r.index.isLt)

/-- The value of a snapshot slot (10_state.md R18, R22): what a register reference lets the consumer read. -/
def getSlot (ref : RegRef) (s : State) : Word :=
  match ref with
  | .gpr r => getGpr r s
  | .flags => s.rflags

/-- `READ(i, n)` (45_reference_consumer.md R132). -/
def readReg (r : Reg) (n : Size) (s : State) : Word :=
  lowBytes n (getGpr r s)

/-- A general-purpose register replaced whole. -/
def setGpr (r : Reg) (v : Word) (s : State) : State :=
  { s with gpr := s.gpr.set r.index.val v r.index.isLt }

/-- `WRITE(i, n, v)` (45_reference_consumer.md R133). -/
def writeReg (r : Reg) (n : Size) (v : Word) (s : State) : State :=
  setGpr r (mergeView n (getGpr r s) v) s

end Sys2Proof.Machine
end

