-- ==== Sys2Proof/Machine/Ops.lean ====
section
/-! DEFINITION. The named operations over memory and state: bytes of a memory, the capture of an instruction's bytes, the
device access of a form, taking a failure, and the three ways the reference consumer applies a record
(45_reference_consumer.md R130 to R141). -/

namespace Sys2Proof.Machine

/-! ## Byte memories -/

/-- The canonical form from address `lo` up: addresses rising, below 2^64, and no entry equal to an unlisted byte. -/
def Memory.wfFrom (lo : Nat) : Memory → Bool
  | [] => true
  | (a, b) :: m => decide (lo ≤ a) && decide (a < 2 ^ 64) && b != Config.unlistedByte && Memory.wfFrom (a + 1) m

/-- The canonical form, so that equal memories are equal data. -/
def Memory.wf (m : Memory) : Bool :=
  Memory.wfFrom 0 m

/-- The byte at an address. -/
def readByte : Memory → Nat → Byte
  | [], _ => Config.unlistedByte
  | (a', b) :: m, a => if a' = a then b else readByte m a

/-- An entry in front of the later ones, or none where the byte is what an unlisted address reads as. -/
def putByte (a : Nat) (b : Byte) (m : Memory) : Memory :=
  if b = Config.unlistedByte then m else (a, b) :: m

/-- One byte written, in the canonical form. -/
def writeByte : Memory → Nat → Byte → Memory
  | [], a, b => putByte a b []
  | (a', b') :: m, a, b =>
    if a < a' then putByte a b ((a', b') :: m)
    else if a = a' then putByte a b m
    else (a', b') :: writeByte m a b

/-- `n` bytes from address `a` as a little-endian number (20_memory.md R41, 45_reference_consumer.md R139). Addresses are
modulo 2^64 (log 12). -/
def readBytes : Nat → Addr → Memory → Word
  | 0, _, _ => 0#64
  | n + 1, a, m => (readBytes n (a + 1) m <<< 8) ||| (readByte m a.toNat).setWidth 64

/-- The `n` low bytes of `v`, least significant at address `a` (45_reference_consumer.md R139). -/
def writeBytes : Nat → Addr → Word → Memory → Memory
  | 0, _, _, m => m
  | n + 1, a, v, m => writeBytes n (a + 1) (v >>> 8) (writeByte m a.toNat (v.setWidth 8))

/-! ## Updates of the state -/

/-- `rflags` replaced. -/
def setRflags (v : Word) (s : State) : State :=
  { s with rflags := v }

/-- `rip` replaced. -/
def setRip (v : Word) (s : State) : State :=
  { s with rip := v }

/-- The device replaced. -/
def setDev (d : Device) (s : State) : State :=
  { s with dev := d }

/-- The guest's code replaced. -/
def setCode (m : Memory) (s : State) : State :=
  { s with code := m }

/-- A request taken into service. -/
def beginTrap (t : Trap) (rest : List Trap) (s : State) : State :=
  { s with trap := t, traps := rest }

/-- TAKING A FAILURE (45_reference_consumer.md R141, 60_exceptions.md R154): `halted` becomes the code; no register, flag,
`rip` or device state changes. There is no return from it (60_exceptions.md R157). -/
def takeFailure (e : Failure) (s : State) : State :=
  { s with halted := some e }

/-- `rip <- (rip + length) mod 2^64` (45_reference_consumer.md R131). -/
def advance (len : Nat) (s : State) : State :=
  setRip (s.rip + BitVec.ofNat 64 len) s

/-! ## The captured bytes -/

/-- The address of byte `k` of the capture at `rip`, modulo 2^64 (45_reference_consumer.md R142, log 12). -/
def codeAddr (s : State) (k : Nat) : Nat :=
  (s.rip + BitVec.ofNat 64 k).toNat

/-- The instruction buffer the caller fills from the guest's code at `rip`, byte 0 the byte at `rip` (20_memory.md R42,
45_reference_consumer.md R142). -/
def captured (s : State) : Vector Byte 15 :=
  Vector.ofFn fun k => readByte s.code (codeAddr s k.val)

/-- The `DECODE` request of a trap (45_reference_consumer.md R130). THE MODEL'S CHOICE (log 31): R130 always calls `DECODE`
with `buf_present = 1`; here `buf_present` is the request's own `present`, so a step on a request with `present = false`
takes the failure `InvalidInput` of 60_exceptions.md R146. With `present = true` the call is that of R130. -/
def requestOf (s : State) (t : Trap) : Request where
  present := t.present
  len := t.len
  buf := captured s

/-- The bytes of a word of the opcode table stored at the given offsets of the next capture (log 13, log 26). -/
def storeCode (s : State) (nbits w : Nat) : List Nat → Memory → Memory
  | [], m => m
  | k :: ks, m => storeCode s nbits w ks (writeByte m (codeAddr s k) (tableByte nbits w k))

/-- The request of a whole buffer, `len = 15` (45_reference_consumer.md R142), for the fault address and the device answer
the state holds. -/
def fullRequest (s : State) : Trap where
  present := true
  len := BitVec.ofNat _ Config.maxInstLen
  fa := s.trap.fa
  answer := s.trap.answer

/-! ## The device access -/

/-- The device serves an access of `n` bytes at `a` (parameter `MISALIGNED`, 20_memory.md R43, log 9). -/
def Device.serves (d : Device) (n : Size) (a : Addr) : Bool :=
  match d.misaligned with
  | .served => true
  | .refused => a.toNat % sizeBytes n == 0

/-- The trap's access of `n` bytes is served. -/
def accessServed (n : Size) (s : State) : Bool :=
  Device.serves s.dev n s.trap.fa

/-- What `MemRead(fa, n)` returns, zero-extended (45_reference_consumer.md R139). -/
def deviceAnswer (n : Size) (s : State) : Word :=
  match s.dev.kind with
  | .oracle => lowBytes n s.trap.answer
  | .ram => readBytes (sizeBytes n) s.trap.fa s.dev.cells

/-- The state after `MemRead(fa, n)`: one access recorded. -/
def deviceLoad (n : Size) (s : State) : State :=
  setDev { s.dev with trace := ⟨.read, s.trap.fa, n, deviceAnswer n s⟩ :: s.dev.trace } s

/-- The state after `MemWrite(fa, n, v)`: the `n` low bytes of `v` stored and one access recorded. -/
def deviceStore (n : Size) (v : Word) (s : State) : State :=
  setDev { s.dev with
    cells := writeBytes (sizeBytes n) s.trap.fa v s.dev.cells
    trace := ⟨.write, s.trap.fa, n, lowBytes n v⟩ :: s.dev.trace } s

/-! ## Applying a record -/

/-- What one instruction answers. -/
abbrev StepOutcome := Host.Outcome State Fault Refusal

/-- MOV_WRITE (45_reference_consumer.md R134, R135): the value goes to the device, then `rip` moves (R130). -/
def emulateWrite (n : Size) (v : Word) (len : Nat) (s : State) : StepOutcome :=
  if accessServed n s then .next (advance len (deviceStore n v s))
  else .refused .misalignedAccess

/-- MOV_READ (45_reference_consumer.md R136): `n` bytes read, zero-extended, and written to the `d`-byte view of the
register, then `rip` moves (R130). -/
def emulateRead (n d : Size) (r : Reg) (len : Nat) (s : State) : StepOutcome :=
  if accessServed n s then .next (advance len (writeReg r d (deviceAnswer n s) (deviceLoad n s)))
  else .refused .misalignedAccess

/-- TEST (45_reference_consumer.md R137, R138): one byte read, the flags of its AND with `imm[7:0]` merged into `rflags`,
then `rip` moves (R130). -/
def emulateTest (imm : Word) (len : Nat) (s : State) : StepOutcome :=
  if accessServed .b1 s then
    .next (advance len (setRflags
      (mergeFlags s.rflags (test8flags ((deviceAnswer .b1 s).setWidth 8) (imm.setWidth 8)))
      (deviceLoad .b1 s)))
  else .refused .misalignedAccess

end Sys2Proof.Machine
end

