-- ==== Sys2Proof/Machine/Mov.lean ====
section
/-! DEFINITION. The MOV forms (41_mov.md R100 to R111), each over the shared operations of Machine/Ops.lean. -/

namespace Sys2Proof.Machine

/-! ## Register to memory -/

/-- 41_mov.md R100: write bits 7:0 of the register to the 1 byte at the fault address. -/
def execMovM8R8 (rex : Option Rex) (reg : Reg) (m : MemOperand) (s : State) : StepOutcome :=
  emulateWrite .b1 (readReg reg .b1 s) (instLength false rex 1 m 0) s

/-- 41_mov.md R101: write bits 15:0 of the register to the 2 bytes at the fault address. -/
def execMovM16R16 (rex : Option Rex) (reg : Reg) (m : MemOperand) (s : State) : StepOutcome :=
  emulateWrite .b2 (readReg reg .b2 s) (instLength true rex 1 m 0) s

/-- 41_mov.md R102: write bits 31:0 of the register to the 4 bytes at the fault address. -/
def execMovM32R32 (rex : Option Rex) (reg : Reg) (m : MemOperand) (s : State) : StepOutcome :=
  emulateWrite .b4 (readReg reg .b4 s) (instLength false rex 1 m 0) s

/-- 41_mov.md R103: write all 64 bits of the register to the 8 bytes at the fault address. -/
def execMovM64R64 (rex : Option Rex) (reg : Reg) (m : MemOperand) (s : State) : StepOutcome :=
  emulateWrite .b8 (readReg reg .b8 s) (instLength false rex 1 m 0) s

/-! ## Memory to register -/

/-- 41_mov.md R104: replace bits 7:0 of the register with the byte read, bits 63:8 unchanged. -/
def execMovR8M8 (rex : Option Rex) (reg : Reg) (m : MemOperand) (s : State) : StepOutcome :=
  emulateRead .b1 .b1 reg (instLength false rex 1 m 0) s

/-- 41_mov.md R105: replace bits 15:0 of the register, bits 63:16 unchanged. -/
def execMovR16M16 (rex : Option Rex) (reg : Reg) (m : MemOperand) (s : State) : StepOutcome :=
  emulateRead .b2 .b2 reg (instLength true rex 1 m 0) s

/-- 41_mov.md R106: write the 4 bytes read zero-extended to 64 bits. -/
def execMovR32M32 (rex : Option Rex) (reg : Reg) (m : MemOperand) (s : State) : StepOutcome :=
  emulateRead .b4 .b4 reg (instLength false rex 1 m 0) s

/-- 41_mov.md R107: write the 8 bytes read to the register. -/
def execMovR64M64 (rex : Option Rex) (reg : Reg) (m : MemOperand) (s : State) : StepOutcome :=
  emulateRead .b8 .b8 reg (instLength false rex 1 m 0) s

/-! ## Immediate to memory -/

/-- 41_mov.md R108: write `imm[7:0]`. -/
def execMovM8I8 (rex : Option Rex) (m : MemOperand) (imm : BitVec 8) (s : State) : StepOutcome :=
  emulateWrite .b1 (immVal (imm.setWidth 64) .b1) (instLength false rex 1 m 1) s

/-- 41_mov.md R109: write `imm[15:0]`. -/
def execMovM16I16 (rex : Option Rex) (m : MemOperand) (imm : BitVec 16) (s : State) : StepOutcome :=
  emulateWrite .b2 (immVal (imm.setWidth 64) .b2) (instLength true rex 1 m 2) s

/-- 41_mov.md R110: write `imm[31:0]`. -/
def execMovM32I32 (rex : Option Rex) (m : MemOperand) (imm : BitVec 32) (s : State) : StepOutcome :=
  emulateWrite .b4 (immVal (imm.setWidth 64) .b4) (instLength false rex 1 m 4) s

/-- 41_mov.md R111: write 8 bytes, the 4-byte immediate sign-extended (45_reference_consumer.md R135). -/
def execMovM64I32 (rex : Option Rex) (m : MemOperand) (imm : BitVec 32) (s : State) : StepOutcome :=
  emulateWrite .b8 (immVal (imm.setWidth 64) .b8) (instLength false rex 1 m 4) s

end Sys2Proof.Machine
end

