-- ==== Sys2Proof/Machine/Movzx.lean ====
section
/-! DEFINITION. The zero-extending MOV forms (42_movzx.md R112 to R116): the access has the source's width, the register
write the destination's. -/

namespace Sys2Proof.Machine

/-- 42_movzx.md R112: replace bits 15:0 of the register with the byte read zero-extended to 16 bits. -/
def execMovzxR16M8 (rex : Option Rex) (reg : Reg) (m : MemOperand) (s : State) : StepOutcome :=
  emulateRead .b1 .b2 reg (instLength true rex 2 m 0) s

/-- 42_movzx.md R113: write the byte read zero-extended to 64 bits. -/
def execMovzxR32M8 (rex : Option Rex) (reg : Reg) (m : MemOperand) (s : State) : StepOutcome :=
  emulateRead .b1 .b4 reg (instLength false rex 2 m 0) s

/-- 42_movzx.md R114: write the byte read zero-extended to 64 bits. -/
def execMovzxR64M8 (rex : Option Rex) (reg : Reg) (m : MemOperand) (s : State) : StepOutcome :=
  emulateRead .b1 .b8 reg (instLength false rex 2 m 0) s

/-- 42_movzx.md R115: write the 2 bytes read zero-extended to 64 bits. -/
def execMovzxR32M16 (rex : Option Rex) (reg : Reg) (m : MemOperand) (s : State) : StepOutcome :=
  emulateRead .b2 .b4 reg (instLength false rex 2 m 0) s

/-- 42_movzx.md R116: write the 2 bytes read zero-extended to 64 bits. -/
def execMovzxR64M16 (rex : Option Rex) (reg : Reg) (m : MemOperand) (s : State) : StepOutcome :=
  emulateRead .b2 .b8 reg (instLength false rex 2 m 0) s

end Sys2Proof.Machine
end

