-- ==== Sys2Proof/Machine/Test.lean ====
section
/-! DEFINITION. The TEST form (43_test.md R117). -/

namespace Sys2Proof.Machine

/-- 43_test.md R117: the byte read ANDed with the immediate, and only the status flags of `rflags` change
(45_reference_consumer.md R137, R138). -/
def execTestM8I8 (rex : Option Rex) (m : MemOperand) (imm : BitVec 8) (s : State) : StepOutcome :=
  emulateTest (imm.setWidth 64) (instLength false rex 1 m 1) s

end Sys2Proof.Machine
end

