-- ==== Sys2Proof/Machine/Dispatch.lean ====
section
/-! DEFINITION. The dispatch: one arm per form of 30_encoding.md R62. -/

namespace Sys2Proof.Machine

def exec (i : Instr) (s : State) : Host.Outcome State Fault Refusal :=
  match i with
  | .movM8R8 rex reg m => Sys2Proof.Machine.execMovM8R8 rex reg m s
  | .movM16R16 rex reg m => Sys2Proof.Machine.execMovM16R16 rex reg m s
  | .movM32R32 rex reg m => Sys2Proof.Machine.execMovM32R32 rex reg m s
  | .movM64R64 rex reg m => Sys2Proof.Machine.execMovM64R64 rex reg m s
  | .movR8M8 rex reg m => Sys2Proof.Machine.execMovR8M8 rex reg m s
  | .movR16M16 rex reg m => Sys2Proof.Machine.execMovR16M16 rex reg m s
  | .movR32M32 rex reg m => Sys2Proof.Machine.execMovR32M32 rex reg m s
  | .movR64M64 rex reg m => Sys2Proof.Machine.execMovR64M64 rex reg m s
  | .movM8I8 rex m imm => Sys2Proof.Machine.execMovM8I8 rex m imm s
  | .movM16I16 rex m imm => Sys2Proof.Machine.execMovM16I16 rex m imm s
  | .movM32I32 rex m imm => Sys2Proof.Machine.execMovM32I32 rex m imm s
  | .movM64I32 rex m imm => Sys2Proof.Machine.execMovM64I32 rex m imm s
  | .movzxR16M8 rex reg m => Sys2Proof.Machine.execMovzxR16M8 rex reg m s
  | .movzxR32M8 rex reg m => Sys2Proof.Machine.execMovzxR32M8 rex reg m s
  | .movzxR64M8 rex reg m => Sys2Proof.Machine.execMovzxR64M8 rex reg m s
  | .movzxR32M16 rex reg m => Sys2Proof.Machine.execMovzxR32M16 rex reg m s
  | .movzxR64M16 rex reg m => Sys2Proof.Machine.execMovzxR64M16 rex reg m s
  | .testM8I8 rex m imm => Sys2Proof.Machine.execTestM8I8 rex m imm s

end Sys2Proof.Machine
end

