-- ==== Sys2Proof/Machine/Emulate.lean ====
section
/-! DEFINITION. Serving one request: the captured bytes decoded, then the instruction applied or the failure taken
(45_reference_consumer.md R130, R141). -/

namespace Sys2Proof.Machine

/-- The request `t` served in state `s` (45_reference_consumer.md R130, widened to requests with an absent buffer,
log 31). -/
def serve (s : State) (t : Trap) : StepOutcome :=
  match decodeRequest (requestOf s t) with
  | .error e => .next (takeFailure e s)
  | .ok i => exec i s

end Sys2Proof.Machine
end

