-- ==== Sys2Proof/Machine/Step.lean ====
section
/-! DEFINITION. One step of the machine (45_reference_consumer.md R130), and the placing of one instruction where the next
step fetches it. -/

namespace Sys2Proof.Machine

/-- One emulation step `EMULATE` (45_reference_consumer.md R130), on any request of the list (log 2, log 31). A halted consumer takes no step (R141, log 4). With no
request to serve nothing happens and no response is produced (70_reset_and_hazards.md R163, log 3). -/
def step (s : State) : Host.Outcome State Fault Refusal :=
  match s.halted with
  | some e => .fault (.halted e)
  | none =>
    match s.traps with
    | [] => .next s
    | t :: rest => serve (beginTrap t rest s) t

/-- The instruction whose bits are `w` stored where the next step fetches (log 13): its bytes in the 15 bytes of code from
`rip`, the consumer not halted, and in front of the requests one with `len = 15` (45_reference_consumer.md R142) for the
fault address and the device answer the state holds. -/
def State.withFetchWord (s : State) (nbits w : Nat) : State :=
  { s with
    code := storeCode s nbits w (List.range Config.maxInstLen) s.code
    halted := none
    traps := fullRequest s :: s.traps }

end Sys2Proof.Machine
end

