-- ==== Sys2Proof/Machine/Record.lean ====
section
/-! DEFINITION. The decoded record (10_state.md R24 to R29), the output ports (R30) and the response of the FTDU to a
request. None of it is state: a record lives only in the step that makes it (R32, log 22). -/

namespace Sys2Proof

/-- The `type` of a record: a closed set of three (10_state.md R25). -/
inductive RecordType where
  | movRead
  | movWrite
  | test
  deriving DecidableEq, Repr

/-- The success record of a `DECODE` (10_state.md R24). `reg` and `destSize` are `none` where the spec has 'absent' and 0;
`flags` says that the reference FLAGS is present. -/
structure Record where
  type : RecordType
  accessSize : Size
  reg : Option Reg
  imm : Word
  flags : Bool
  length : Nat
  destSize : Option Size
  deriving DecidableEq, Repr

end Sys2Proof

namespace Sys2Proof.Machine

/-- A MOV_WRITE record with a register source (41_mov.md R100 to R103). -/
def storeRecord (n : Size) (r : Reg) (len : Nat) : Record :=
  { type := .movWrite, accessSize := n, reg := some r, imm := 0#64, flags := false, length := len, destSize := none }

/-- A MOV_READ record (41_mov.md R104 to R107, 42_movzx.md R112 to R116). -/
def loadRecord (n d : Size) (r : Reg) (len : Nat) : Record :=
  { type := .movRead, accessSize := n, reg := some r, imm := 0#64, flags := false, length := len, destSize := some d }

/-- A MOV_WRITE record with an immediate source (41_mov.md R108 to R111); `imm` is already zero-extended (30_encoding.md
R74). -/
def immRecord (n : Size) (imm : Word) (len : Nat) : Record :=
  { type := .movWrite, accessSize := n, reg := none, imm := imm, flags := false, length := len, destSize := none }

/-- The TEST record (43_test.md R117). -/
def testRecord (imm : Word) (len : Nat) : Record :=
  { type := .test, accessSize := .b1, reg := none, imm := imm, flags := true, length := len, destSize := none }

/-- The record of an instruction, row by row (40_decoder.md R96). -/
def recordOf (i : Instr) : Record :=
  match i with
  | .movM8R8 _ reg _ => storeRecord .b1 reg i.length
  | .movM16R16 _ reg _ => storeRecord .b2 reg i.length
  | .movM32R32 _ reg _ => storeRecord .b4 reg i.length
  | .movM64R64 _ reg _ => storeRecord .b8 reg i.length
  | .movR8M8 _ reg _ => loadRecord .b1 .b1 reg i.length
  | .movR16M16 _ reg _ => loadRecord .b2 .b2 reg i.length
  | .movR32M32 _ reg _ => loadRecord .b4 .b4 reg i.length
  | .movR64M64 _ reg _ => loadRecord .b8 .b8 reg i.length
  | .movM8I8 _ _ imm => immRecord .b1 (imm.setWidth 64) i.length
  | .movM16I16 _ _ imm => immRecord .b2 (imm.setWidth 64) i.length
  | .movM32I32 _ _ imm => immRecord .b4 (imm.setWidth 64) i.length
  | .movM64I32 _ _ imm => immRecord .b8 (imm.setWidth 64) i.length
  | .movzxR16M8 _ reg _ => loadRecord .b1 .b2 reg i.length
  | .movzxR32M8 _ reg _ => loadRecord .b1 .b4 reg i.length
  | .movzxR64M8 _ reg _ => loadRecord .b1 .b8 reg i.length
  | .movzxR32M16 _ reg _ => loadRecord .b2 .b4 reg i.length
  | .movzxR64M16 _ reg _ => loadRecord .b2 .b8 reg i.length
  | .testM8I8 _ _ imm => testRecord (imm.setWidth 64) i.length

/-- `DECODE` (10_state.md R17, R29): the record of the instruction the request's bytes hold, or the failure. -/
def respond (q : Request) : Response Record :=
  (decodeRequest q).map recordOf

/-- The response the FTDU gives in a state: that to the next request, and none while there is no request
(70_reset_and_hazards.md R163) or the consumer has halted (45_reference_consumer.md R130). -/
def pendingResponse (s : State) : Option (Response Record) :=
  match s.halted, s.traps with
  | none, t :: _ => some (respond (requestOf s t))
  | _, _ => none

/-! ## The output ports -/

/-- The status codes (60_exceptions.md R145). -/
def statusCode : Failure → BitVec 3
  | .invalidInput => 1
  | .lengthExceeded => 2
  | .outOfRange => 3
  | .unsupported => 4
  | .badState => 5
  | .invalidArgs => 6

/-- The type codes (10_state.md R25). -/
def typeCode : RecordType → BitVec 2
  | .movRead => 0
  | .movWrite => 1
  | .test => 2

/-- The outputs of a `DECODE` response (10_state.md R30). -/
structure Ports where
  status : BitVec 3
  type : BitVec 2
  accessSize : BitVec 4
  regValid : BitVec 1
  regIndex : BitVec 4
  imm : BitVec 64
  flagsValid : BitVec 1
  length : BitVec 4
  destSize : BitVec 4
  deriving DecidableEq, Repr

/-- The outputs on a success (10_state.md R30). -/
def recordPorts (r : Record) : Ports where
  status := 0
  type := typeCode r.type
  accessSize := BitVec.ofNat 4 (sizeBytes r.accessSize)
  regValid := BitVec.ofBool r.reg.isSome
  regIndex := match r.reg with
    | none => 0
    | some g => BitVec.ofNat 4 g.index.val
  imm := r.imm
  flagsValid := BitVec.ofBool r.flags
  length := BitVec.ofNat 4 r.length
  destSize := match r.destSize with
    | none => 0
    | some d => BitVec.ofNat 4 (sizeBytes d)

/-- The outputs of a response: on a failure the code, and every payload output 0 (10_state.md R29, R30). -/
def portsOf : Response Record → Ports
  | .ok r => recordPorts r
  | .error e =>
    { status := statusCode e, type := 0, accessSize := 0, regValid := 0, regIndex := 0, imm := 0, flagsValid := 0,
      length := 0, destSize := 0 }

/-- The register reference a record names, if any (10_state.md R22, R24). -/
def recordReg (r : Record) : Option RegRef :=
  r.reg.map RegRef.gpr

/-- The flags reference a record names, if any: always slot 16 (10_state.md R24, R30). -/
def recordFlags (r : Record) : Option RegRef :=
  if r.flags then some .flags else none

end Sys2Proof.Machine
end

