-- ==== Sys2Proof/Machine/Reference.lean ====
section
/-! DEFINITION. The spec's own text of `DECODE` (40_decoder.md R84, R96) and of `EMULATE` (45_reference_consumer.md R130)
written out line by line with its cursor and its raw bytes. `step` does not call it: it is the clear form against which the
statements compare the machine (log 29). -/

namespace Sys2Proof.Machine

/-- `buf[i]`; the value at an index past the buffer is never used (40_decoder.md R83). -/
def bufByte (q : Request) (i : Nat) : Byte :=
  q.buf.toList.getD i 0#8

/-- `need(k)`, then the rest of the operation (40_decoder.md R83). -/
def needThen {α : Type} (q : Request) (k : Nat) (rest : Response α) : Response α :=
  if k > q.len.toNat then .error .outOfRange else rest

/-- `LE(p, n)`, zero-extended to 64 bits (00_scope.md R13). -/
def bufLE (q : Request) : Nat → Nat → Word
  | _, 0 => 0#64
  | p, n + 1 => (bufLE q (p + 1) n <<< 8) ||| (bufByte q p).setWidth 64

/-- `FORM(opc, h66, W, regidx, imm, p)` (40_decoder.md R96), with `opc` one byte or the two bytes `0x0F op2` as a number; no
record for a combination that is not listed. -/
def formR96 (opc : Nat) (h66 w : Bool) (regidx : BitVec 4) (imm : Word) (p : Nat) : Option Record :=
  match opc, h66, w with
  | 0x88, false, _ => some ⟨.movWrite, .b1, some (Reg.ofIndex regidx), 0, false, p, none⟩
  | 0x89, true, false => some ⟨.movWrite, .b2, some (Reg.ofIndex regidx), 0, false, p, none⟩
  | 0x89, false, false => some ⟨.movWrite, .b4, some (Reg.ofIndex regidx), 0, false, p, none⟩
  | 0x89, false, true => some ⟨.movWrite, .b8, some (Reg.ofIndex regidx), 0, false, p, none⟩
  | 0x8A, false, _ => some ⟨.movRead, .b1, some (Reg.ofIndex regidx), 0, false, p, some .b1⟩
  | 0x8B, true, false => some ⟨.movRead, .b2, some (Reg.ofIndex regidx), 0, false, p, some .b2⟩
  | 0x8B, false, false => some ⟨.movRead, .b4, some (Reg.ofIndex regidx), 0, false, p, some .b4⟩
  | 0x8B, false, true => some ⟨.movRead, .b8, some (Reg.ofIndex regidx), 0, false, p, some .b8⟩
  | 0xC6, false, _ => some ⟨.movWrite, .b1, none, imm, false, p, none⟩
  | 0xC7, true, false => some ⟨.movWrite, .b2, none, imm, false, p, none⟩
  | 0xC7, false, false => some ⟨.movWrite, .b4, none, imm, false, p, none⟩
  | 0xC7, false, true => some ⟨.movWrite, .b8, none, imm, false, p, none⟩
  | 0x0FB6, true, false => some ⟨.movRead, .b1, some (Reg.ofIndex regidx), 0, false, p, some .b2⟩
  | 0x0FB6, false, false => some ⟨.movRead, .b1, some (Reg.ofIndex regidx), 0, false, p, some .b4⟩
  | 0x0FB6, false, true => some ⟨.movRead, .b1, some (Reg.ofIndex regidx), 0, false, p, some .b8⟩
  | 0x0FB7, false, false => some ⟨.movRead, .b2, some (Reg.ofIndex regidx), 0, false, p, some .b4⟩
  | 0x0FB7, false, true => some ⟨.movRead, .b2, some (Reg.ofIndex regidx), 0, false, p, some .b8⟩
  | 0xF6, false, _ => some ⟨.test, .b1, none, imm, true, p, none⟩
  | _, _, _ => none

/-- Stages 7 and 8 of 40_decoder.md R84. -/
def r84Stage7 (q : Request) (h66 rexPresent : Bool) (rex : Byte) (opc : Nat) (reg : BitVec 3) (p : Nat) :
    Response Record :=
  let nimm := if opc = 0xC6 ∨ opc = 0xF6 then 1 else if opc = 0xC7 then (if h66 then 2 else 4) else 0
  needThen q (p + nimm)
    (if (opc = 0x88 ∨ opc = 0x8A) ∧ rexPresent = false ∧ (reg = 4 ∨ reg = 5 ∨ reg = 6 ∨ reg = 7) then
      .error .unsupported
    else
      match formR96 opc h66 (rex.getLsbD 3) (BitVec.ofBool (rex.getLsbD 2) ++ reg) (bufLE q p nimm) (p + nimm) with
      | some rec => .ok rec
      | none => .error .unsupported)

/-- Stages 5 and 6 of 40_decoder.md R84. -/
def r84Stage5 (q : Request) (h66 rexPresent : Bool) (rex : Byte) (opc : Nat) (mod : BitVec 2) (reg rm : BitVec 3)
    (p : Nat) : Response Record :=
  if rm = 0b100#3 then
    needThen q (p + 1)
      (let base := (bufByte q p).extractLsb' 0 3
       let ndisp := if mod = 0b01#2 then 1 else if mod = 0b10#2 then 4 else if base = 0b101#3 then 4 else 0
       needThen q (p + 1 + ndisp) (r84Stage7 q h66 rexPresent rex opc reg (p + 1 + ndisp)))
  else
    let ndisp := if mod = 0b01#2 then 1 else if mod = 0b10#2 then 4 else if rm = 0b101#3 then 4 else 0
    needThen q (p + ndisp) (r84Stage7 q h66 rexPresent rex opc reg (p + ndisp))

/-- Stage 4 of 40_decoder.md R84. -/
def r84Stage4 (q : Request) (h66 rexPresent : Bool) (rex : Byte) (opc : Nat) (p : Nat) : Response Record :=
  needThen q (p + 1)
    (let modrm := bufByte q p
     let mod := modrm.extractLsb' 6 2
     let reg := modrm.extractLsb' 3 3
     let rm := modrm.extractLsb' 0 3
     if mod = 0b11#2 then .error .unsupported
     else if (opc = 0xC6 ∨ opc = 0xC7 ∨ opc = 0xF6) ∧ reg ≠ 0#3 then .error .invalidArgs
     else r84Stage5 q h66 rexPresent rex opc mod reg rm (p + 1))

/-- Stage 3b of 40_decoder.md R84. -/
def r84Stage3b (q : Request) (h66 rexPresent : Bool) (rex : Byte) (opc : Nat) (p : Nat) : Response Record :=
  if h66 = true ∧ (opc = 0xF6 ∨ opc = 0x0FB7) then .error .badState
  else if h66 = true ∧ (opc = 0x88 ∨ opc = 0x8A ∨ opc = 0xC6) then .error .unsupported
  else r84Stage4 q h66 rexPresent rex opc p

/-- Stage 3 of 40_decoder.md R84: the opcode is at `p`. -/
def r84Stage3 (q : Request) (h66 rexPresent : Bool) (rex : Byte) (p : Nat) : Response Record :=
  let op := (bufByte q p).toNat
  if op = 0x0F then
    needThen q (p + 2)
      (let op2 := (bufByte q (p + 1)).toNat
       if op2 ≠ 0xB6 ∧ op2 ≠ 0xB7 then .error .unsupported
       else r84Stage3b q h66 rexPresent rex (0x0F00 + op2) (p + 2))
  else if op = 0x88 ∨ op = 0x89 ∨ op = 0x8A ∨ op = 0x8B ∨ op = 0xC6 ∨ op = 0xC7 ∨ op = 0xF6 then
    r84Stage3b q h66 rexPresent rex op (p + 1)
  else .error .unsupported

/-- Stage 2 of 40_decoder.md R84: the REX byte, if any, is at `p`. -/
def r84Stage2 (q : Request) (h66 : Bool) (p : Nat) : Response Record :=
  needThen q (p + 1)
    (if (bufByte q p).extractLsb' 4 4 = 0b0100#4 then
      needThen q (p + 2)
        (if (bufByte q (p + 1)).extractLsb' 4 4 = 0b0100#4 then .error .unsupported
         else if h66 = true ∧ (bufByte q p).getLsbD 3 = true then .error .unsupported
         else r84Stage3 q h66 true (bufByte q p) (p + 1))
     else r84Stage3 q h66 false 0x00#8 p)

/-- `DECODE` as 40_decoder.md R84 writes it: stages 0 and 1, then the rest. -/
def decodeR84 (q : Request) : Response Record :=
  if q.present = false ∨ q.len.toNat = 0 then .error .invalidInput
  else if q.len.toNat > 15 then .error .lengthExceeded
  else if bufByte q 0 = 0x66#8 then r84Stage2 q true 1
  else r84Stage2 q false 0

/-- The record applied (45_reference_consumer.md R130). A MOV_READ record without a register or a destination size is none
that a `DECODE` returns (10_state.md R26, log 27). -/
def applyRecord (r : Record) (s : State) : StepOutcome :=
  match r.type, r.reg with
  | .movWrite, some g => emulateWrite r.accessSize (readReg g r.accessSize s) r.length s
  | .movWrite, none => emulateWrite r.accessSize (immVal r.imm r.accessSize) r.length s
  | .movRead, some g =>
    match r.destSize with
    | some d => emulateRead r.accessSize d g r.length s
    | none => .refused .malformedRecord
  | .movRead, none => .refused .malformedRecord
  | .test, _ => emulateTest r.imm r.length s

/-- `EMULATE` (45_reference_consumer.md R130) on a request that is in service: R84, then the record applied or the failure
taken (R141). The rule's `DECODE(1, …)` has the request's own `present` in place of 1: THE MODEL'S CHOICE (log 31). -/
def emulateR130 (s : State) (t : Trap) : StepOutcome :=
  match decodeR84 (requestOf s t) with
  | .error e => .next (takeFailure e s)
  | .ok r => applyRecord r s

end Sys2Proof.Machine
end

