-- ==== Sys2Proof/WellFormed.lean ====
section
/-! DEFINITION. Which terms of `Instr` stand for an encoding: the conditions of 30_encoding.md R62, R65, R67, R69, R75 and
R76 on the operands of each form. -/

namespace Sys2Proof

/-- What a form asks of REX.W (30_encoding.md R62). -/
inductive WRule where
  /-- A REX may be present, and its W is ignored (the byte opcodes). -/
  | any
  /-- No REX, or a REX with W = 0. -/
  | zero
  /-- A REX with W = 1. -/
  | one
  deriving DecidableEq, Repr

/-- REX.W is what the form asks. -/
def rexOk (rule : WRule) (rex : Option Rex) : Bool :=
  match rule with
  | .any => true
  | .zero => !rexW rex
  | .one => rexW rex

/-- REX.R is the high bit of the register's index (30_encoding.md R75). -/
def regOk (rex : Option Rex) (reg : Reg) : Bool :=
  rexR rex == reg.high

/-- An 8-bit register operand is no legacy high byte (30_encoding.md R76). -/
def byteRegOk (rex : Option Rex) (reg : Reg) : Bool :=
  rex.isSome || (legacyHighByte reg.field).isNone

/-- The displacement has this many bytes (30_encoding.md R69). -/
def Disp.size : Disp → Nat
  | .none => 0
  | .d8 _ => 1
  | .d32 _ => 4

/-- The memory operand is not register-direct (30_encoding.md R65), has a SIB byte exactly when `rm = 0b100` (R67), and has
the displacement its mode gives it (R69). -/
def memOk (m : MemOperand) : Bool :=
  m.mod != 0b11#2 && (m.sib.isSome == (m.rm == 0b100#3)) &&
    m.disp.size == dispSize m.mod m.rm (m.sib.map Sib.base)

/-- A term that is an accepted form (30_encoding.md R62). -/
def Instr.wf : Instr → Bool
  | .movM8R8 rex reg m => rexOk .any rex && regOk rex reg && byteRegOk rex reg && memOk m
  | .movM16R16 rex reg m => rexOk .zero rex && regOk rex reg && memOk m
  | .movM32R32 rex reg m => rexOk .zero rex && regOk rex reg && memOk m
  | .movM64R64 rex reg m => rexOk .one rex && regOk rex reg && memOk m
  | .movR8M8 rex reg m => rexOk .any rex && regOk rex reg && byteRegOk rex reg && memOk m
  | .movR16M16 rex reg m => rexOk .zero rex && regOk rex reg && memOk m
  | .movR32M32 rex reg m => rexOk .zero rex && regOk rex reg && memOk m
  | .movR64M64 rex reg m => rexOk .one rex && regOk rex reg && memOk m
  | .movM8I8 rex m _ => rexOk .any rex && memOk m
  | .movM16I16 rex m _ => rexOk .zero rex && memOk m
  | .movM32I32 rex m _ => rexOk .zero rex && memOk m
  | .movM64I32 rex m _ => rexOk .one rex && memOk m
  | .movzxR16M8 rex reg m => rexOk .zero rex && regOk rex reg && memOk m
  | .movzxR32M8 rex reg m => rexOk .zero rex && regOk rex reg && memOk m
  | .movzxR64M8 rex reg m => rexOk .one rex && regOk rex reg && memOk m
  | .movzxR32M16 rex reg m => rexOk .zero rex && regOk rex reg && memOk m
  | .movzxR64M16 rex reg m => rexOk .one rex && regOk rex reg && memOk m
  | .testM8I8 rex m _ => rexOk .any rex && memOk m

end Sys2Proof
end

