-- ==== Sys2Proof/Safety.lean ====
section
/-! DEFINITION. The terms the claims use: the invariant of the state, what an instruction may change, and the effect of
each kind of record, told byte by byte and register by register. -/

namespace Sys2Proof.Machine

/-- A recorded access carries no bits above its size (45_reference_consumer.md R139: the `n` low bytes). -/
def DevAccess.fits (a : DevAccess) : Prop :=
  lowBytes a.size a.value = a.value

/-- The invariant of the state: both memories are in canonical form, bit 1 of `rflags` is set ('reserved, reads 1',
10_state.md R23; no merge changes it, 45_reference_consumer.md R138), and every recorded access fits its size. -/
structure State.Inv (s : State) : Prop where
  codeWf : Memory.wf s.code = true
  cellsWf : Memory.wf s.dev.cells = true
  reservedOne : s.rflags.getLsbD 1 = true
  traceFits : ∀ a ∈ s.dev.trace, DevAccess.fits a

/-- A safe outcome: the machine goes on. -/
def SafeOutcome (o : StepOutcome) : Prop :=
  ∃ t, o = .next t

/-- The byte the device memory holds at an address. -/
def devByte (s : State) (a : Nat) : Byte :=
  readByte s.dev.cells a

/-- The address of byte `k` of the trap's access (45_reference_consumer.md R139, log 12). -/
def accessAddr (s : State) (k : Nat) : Nat :=
  (s.trap.fa + BitVec.ofNat 64 k).toNat

/-- Bits `8k+7:8k` of a value. -/
def byteOf (v : Word) (k : Nat) : Byte :=
  v.extractLsb' (8 * k) 8

/-- What no instruction changes: the guest's code (the model's choice, log 11), `halted`, the requests (log 2) and the
device's parameters (log 6). -/
structure InputsKept (s t : State) : Prop where
  code : t.code = s.code
  halted : t.halted = s.halted
  trap : t.trap = s.trap
  traps : t.traps = s.traps
  kind : t.dev.kind = s.dev.kind
  misaligned : t.dev.misaligned = s.dev.misaligned

/-- The effect of a store of the `n` low bytes of `v` (45_reference_consumer.md R134, R135, R139): those bytes at the fault
address, little-endian; every other byte of the device, every register and `rflags` unchanged; one access; `rip` past the
instruction. The addresses wrap (log 12), and the access is recorded in the trace (log 19). -/
structure StoreEffect (n : Size) (v : Word) (len : Nat) (s t : State) : Prop where
  stored : ∀ k < sizeBytes n, devByte t (accessAddr s k) = byteOf v k
  elsewhere : ∀ a, (∀ k < sizeBytes n, a ≠ accessAddr s k) → devByte t a = devByte s a
  trace : t.dev.trace = ⟨.write, s.trap.fa, n, lowBytes n v⟩ :: s.dev.trace
  gpr : ∀ q, getGpr q t = getGpr q s
  rflags : t.rflags = s.rflags
  rip : t.rip = s.rip + BitVec.ofNat 64 len
  inputs : InputsKept s t

/-- The effect of a load of `n` bytes that leaves `v` in register `r` (45_reference_consumer.md R136): every other register,
`rflags` and every byte of the device unchanged; one access, recorded in the trace (log 19); `rip` past the instruction. -/
structure LoadEffect (n : Size) (r : Reg) (v : Word) (len : Nat) (s t : State) : Prop where
  dest : getGpr r t = v
  others : ∀ q, q ≠ r → getGpr q t = getGpr q s
  memory : ∀ a, devByte t a = devByte s a
  trace : t.dev.trace = ⟨.read, s.trap.fa, n, deviceAnswer n s⟩ :: s.dev.trace
  rflags : t.rflags = s.rflags
  rip : t.rip = s.rip + BitVec.ofNat 64 len
  inputs : InputsKept s t

/-- The effect of a test that leaves `f` in `rflags` (45_reference_consumer.md R137): every register and every byte of the
device unchanged; one access; `rip` past the instruction. -/
structure TestEffect (f : Word) (len : Nat) (s t : State) : Prop where
  rflags : t.rflags = f
  gpr : ∀ q, getGpr q t = getGpr q s
  memory : ∀ a, devByte t a = devByte s a
  trace : t.dev.trace = ⟨.read, s.trap.fa, .b1, deviceAnswer .b1 s⟩ :: s.dev.trace
  rip : t.rip = s.rip + BitVec.ofNat 64 len
  inputs : InputsKept s t

/-- The register operand of a form, if it has one (30_encoding.md R62). -/
def regOperand : Instr → Option Reg
  | .movM8R8 _ reg _ => some reg
  | .movM16R16 _ reg _ => some reg
  | .movM32R32 _ reg _ => some reg
  | .movM64R64 _ reg _ => some reg
  | .movR8M8 _ reg _ => some reg
  | .movR16M16 _ reg _ => some reg
  | .movR32M32 _ reg _ => some reg
  | .movR64M64 _ reg _ => some reg
  | .movM8I8 _ _ _ => none
  | .movM16I16 _ _ _ => none
  | .movM32I32 _ _ _ => none
  | .movM64I32 _ _ _ => none
  | .movzxR16M8 _ reg _ => some reg
  | .movzxR32M8 _ reg _ => some reg
  | .movzxR64M8 _ reg _ => some reg
  | .movzxR32M16 _ reg _ => some reg
  | .movzxR64M16 _ reg _ => some reg
  | .testM8I8 _ _ _ => none

/-- The access size of a form (30_encoding.md R78). -/
def accessSizeOf : Instr → Size
  | .movM8R8 _ _ _ => .b1
  | .movM16R16 _ _ _ => .b2
  | .movM32R32 _ _ _ => .b4
  | .movM64R64 _ _ _ => .b8
  | .movR8M8 _ _ _ => .b1
  | .movR16M16 _ _ _ => .b2
  | .movR32M32 _ _ _ => .b4
  | .movR64M64 _ _ _ => .b8
  | .movM8I8 _ _ _ => .b1
  | .movM16I16 _ _ _ => .b2
  | .movM32I32 _ _ _ => .b4
  | .movM64I32 _ _ _ => .b8
  | .movzxR16M8 _ _ _ => .b1
  | .movzxR32M8 _ _ _ => .b1
  | .movzxR64M8 _ _ _ => .b1
  | .movzxR32M16 _ _ _ => .b2
  | .movzxR64M16 _ _ _ => .b2
  | .testM8I8 _ _ _ => .b1

/-- The bytes of an opcode (30_encoding.md R59, R60). -/
def opcodeBytes : Opcode → List Byte
  | .op88 => [0x88#8]
  | .op89 => [0x89#8]
  | .op8A => [0x8A#8]
  | .op8B => [0x8B#8]
  | .opC6 => [0xC6#8]
  | .opC7 => [0xC7#8]
  | .opF6 => [0xF6#8]
  | .op0FB6 => [0x0F#8, 0xB6#8]
  | .op0FB7 => [0x0F#8, 0xB7#8]

/-- The prefixes that an opcode accepts: not both `0x66` and REX.W, and `0x66` only with the opcodes that have a 16-bit form
(30_encoding.md R57, R63). -/
def prefixesAccepted (h66 : Bool) (rex : Option Rex) : Opcode → Bool
  | .op89 | .op8B | .opC7 | .op0FB6 => !(h66 && rexW rex)
  | .op88 | .op8A | .opC6 | .opF6 | .op0FB7 => !h66

/-- The bytes of a request whose call is valid (40_decoder.md R85, R86). -/
def validCall (q : Request) : Prop :=
  q.present = true ∧ 1 ≤ q.len.toNat ∧ q.len.toNat ≤ Config.maxInstLen

end Sys2Proof.Machine
end

