-- ==== Sys2Proof/Certificates/Slice0/Obligations.lean ====
section
/-! DEFINITION. The statements for the provers. Each docstring names the rule of spec/ it formalises, or says that it is the
model's own choice and names the log entry. -/

open Sys2Proof Sys2Proof.Machine

/-! ## Encoding -/

/-- No bit of an encoding is dropped: the bytes of a well-formed instruction, whatever follows them, decode to it and leave
what follows (30_encoding.md R62, R79). -/
def Obligations.DecodeOfEncodeReturnsInstruction : Prop :=
  ∀ (i : Instr) (rest : List Byte), i.wf = true → decodeInstr (encode i ++ rest) = .ok (i, rest)

/-- Nothing else decodes: bytes that decode to an instruction begin with its own encoding, and it is well formed
(30_encoding.md R62, R82). -/
def Obligations.DecodeAcceptsOnlyEncodings : Prop :=
  ∀ (bytes : List Byte) (i : Instr) (rest : List Byte), decodeInstr bytes = .ok (i, rest) →
    i.wf = true ∧ bytes = encode i ++ rest

/-- The decoder is the algorithm of 40_decoder.md R84 with the record table of R96: the same record or the same failure for
every request. -/
def Obligations.ResponseIsAlgorithmR84 : Prop :=
  ∀ q : Request, respond q = decodeR84 q

/-- The consumed length (10_state.md R27, 30_encoding.md R52, R79, 40_decoder.md R99): it counts the bytes taken from the
front, lies between 2 and 12, and in a request does not pass the declared length. -/
def Obligations.ConsumedLengthIsBounded : Prop :=
  (∀ (bytes : List Byte) (i : Instr) (rest : List Byte), decodeInstr bytes = .ok (i, rest) →
    bytes.length = i.length + rest.length ∧ 2 ≤ i.length ∧ i.length ≤ 12) ∧
  ∀ (q : Request) (r : Record), respond q = .ok r → 2 ≤ r.length ∧ r.length ≤ min q.len.toNat 12

/-- An instruction cut short anywhere is `OutOfRange` (60_exceptions.md R148): no shorter part of an accepted encoding
gives another failure or decodes. -/
def Obligations.TruncatedEncodingIsOutOfRange : Prop :=
  ∀ (i : Instr) (n : Nat), i.wf = true → n < i.length → decodeInstr ((encode i).take n) = .error .outOfRange

/-- Bounded reading (20_memory.md R39): the response does not depend on a byte at or past `len`, nor, on success, on a byte at
or past the consumed length. -/
def Obligations.ResponseIgnoresUnreadBytes : Prop :=
  (∀ q q' : Request, q.present = q'.present → q.len = q'.len →
    (∀ k < q.len.toNat, bufByte q k = bufByte q' k) → respond q = respond q') ∧
  ∀ (q q' : Request) (r : Record), respond q = .ok r → q'.present = true → q'.len = q.len →
    (∀ k < r.length, bufByte q k = bufByte q' k) → respond q' = .ok r

/-- REX.X and REX.B change no decision: the record, or the failure, is the same whatever they are (30_encoding.md R72). -/
def Obligations.RexIndexAndBaseBitsAreIgnored : Prop :=
  ∀ (h66 : Bool) (p : Rex) (x b : Bool) (rest : List Byte),
    (decodeInstr (opsizeBytes h66 ++ p.toByte :: rest)).map (fun a => recordOf a.1) =
      (decodeInstr (opsizeBytes h66 ++ Rex.toByte ⟨p.w, p.r, x, b⟩ :: rest)).map (fun a => recordOf a.1)

/-- Words written out from the spec's own vectors (95_test_vectors.md T6, S13, T58, T64, T83) decode to the instructions they
stand for. -/
def Obligations.SpecVectorsDecode : Prop :=
  decodeInstr [0x88#8, 0x08#8] = .ok (.movM8R8 none .rcx ⟨0, 0, none, .none⟩, []) ∧
  decodeInstr [0x8B#8, 0x04#8, 0x25#8, 0x00#8, 0x10#8, 0x00#8, 0x00#8] =
    .ok (.movR32M32 none .rax ⟨0, 4, some ⟨0, 4, 5⟩, .d32 0x1000⟩, []) ∧
  decodeInstr [0x48#8, 0xC7#8, 0x84#8, 0x24#8, 0x00#8, 0x01#8, 0x00#8, 0x00#8, 0xFF#8, 0xFF#8, 0xFF#8, 0xFF#8] =
    .ok (.movM64I32 (some ⟨true, false, false, false⟩) ⟨2, 4, some ⟨0, 4, 4⟩, .d32 0x100⟩ 0xFFFFFFFF, []) ∧
  decodeInstr [0x4C#8, 0x0F#8, 0xB6#8, 0x38#8] =
    .ok (.movzxR64M8 (some ⟨true, true, false, false⟩) .r15 ⟨0, 0, none, .none⟩, []) ∧
  decodeInstr [0xF6#8, 0x04#8, 0x25#8, 0x00#8, 0x20#8, 0x00#8, 0x00#8, 0x01#8] =
    .ok (.testM8I8 none ⟨0, 4, some ⟨0, 4, 5⟩, .d32 0x2000⟩ 1, [])

/-- The register index table (10_state.md R19): index `k` is the `k`th name, and each index names one register. -/
def Obligations.RegisterIndexTable : Prop :=
  [Reg.rax, .rcx, .rdx, .rbx, .rsp, .rbp, .rsi, .rdi, .r8, .r9, .r10, .r11, .r12, .r13, .r14, .r15].map
      (fun r => r.index.val) = List.range 16 ∧
  (∀ r : Reg, Reg.ofIndex (BitVec.ofNat 4 r.index.val) = r) ∧
  ∀ i : BitVec 4, (Reg.ofIndex i).index.val = i.toNat

/-- The displacement size by mod, rm and SIB base, row by row (30_encoding.md R69). -/
def Obligations.DisplacementSizeTable : Prop :=
  ∀ (rm base : BitVec 3),
    dispSize 0b01 rm (some base) = 1 ∧ dispSize 0b01 rm none = 1 ∧
    dispSize 0b10 rm (some base) = 4 ∧ dispSize 0b10 rm none = 4 ∧
    dispSize 0b00 0b101 none = 4 ∧ dispSize 0b00 0b100 (some 0b101) = 4 ∧
    (base ≠ 0b101 → dispSize 0b00 0b100 (some base) = 0) ∧
    (rm ≠ 0b101 → dispSize 0b00 rm none = 0)

/-! ## Failures -/

/-- `InvalidInput` is raised exactly when the buffer is absent or its length is 0 (60_exceptions.md R146). -/
def Obligations.InvalidInputExactly : Prop :=
  ∀ q : Request, respond q = .error .invalidInput ↔ (q.present = false ∨ q.len.toNat = 0)

/-- `LengthExceeded` is raised exactly when the buffer is present, `len >= 1` and `len > 15` (60_exceptions.md R147). -/
def Obligations.LengthExceededExactly : Prop :=
  ∀ q : Request, respond q = .error .lengthExceeded ↔
    (q.present = true ∧ 1 ≤ q.len.toNat ∧ 15 < q.len.toNat)

/-- `BadState` is raised for exactly two combinations: `0x66` with `0xF6`, and `0x66` with `0x0F 0xB7` (60_exceptions.md
R150); a REX prefix between them has W = 0, or the size conflict comes first (40_decoder.md R90). -/
def Obligations.BadStateExactly : Prop :=
  ∀ q : Request, respond q = .error .badState ↔
    validCall q ∧ ∃ (rex : Option Rex) (opc : Opcode) (rest : List Byte), rexW rex = false ∧
      (opc = .opF6 ∨ opc = .op0FB7) ∧ q.bytes = 0x66#8 :: (rexBytes rex ++ (opcodeBytes opc ++ rest))

/-- `InvalidArgs` is raised exactly for `0xC6`, `0xC7` and `0xF6` with ModRM.mod other than 0b11 and ModRM.reg other than 0
(60_exceptions.md R151), the prefixes being ones the opcode accepts, or an earlier stage fails first (R153). -/
def Obligations.InvalidArgsExactly : Prop :=
  ∀ q : Request, respond q = .error .invalidArgs ↔
    validCall q ∧ ∃ (h66 : Bool) (rex : Option Rex) (opc : Opcode) (b : Byte) (rest : List Byte),
      (opc = .opC6 ∨ opc = .opC7 ∨ opc = .opF6) ∧ prefixesAccepted h66 rex opc = true ∧
      q.bytes = opsizeBytes h66 ++ (rexBytes rex ++ (opcodeBytes opc ++ b :: rest)) ∧
      (ModRM.ofByte b).mod ≠ 0b11#2 ∧ (ModRM.ofByte b).reg ≠ 0#3

/-- `Unsupported` is raised exactly in the cases (a) to (f) of 60_exceptions.md R149, each where no earlier stage fails
(R153): (a) a second REX; (b) `0x66` with REX.W; (c) an opcode outside the maps, of one byte or after `0x0F`; (d) `0x66` with
`0x88`, `0x8A` or `0xC6`; (e) mod = 0b11; (f) a complete `0x88` or `0x8A` naming a legacy high byte without REX. -/
def Obligations.UnsupportedExactly : Prop :=
  ∀ q : Request, respond q = .error .unsupported ↔
    validCall q ∧
    ((∃ (h66 : Bool) (p : Rex) (b : Byte) (rest : List Byte), isRexByte b = true ∧
        q.bytes = opsizeBytes h66 ++ p.toByte :: b :: rest) ∨
     (∃ (p : Rex) (b : Byte) (rest : List Byte), p.w = true ∧ q.bytes = 0x66#8 :: p.toByte :: b :: rest) ∨
     (∃ (h66 : Bool) (rex : Option Rex) (op : Byte) (rest : List Byte), isRexByte op = false ∧
        oneByteOpcode op = none ∧ op ≠ 0x0F#8 ∧ (op = 0x66#8 → h66 = true ∨ rex.isSome = true) ∧
        q.bytes = opsizeBytes h66 ++ (rexBytes rex ++ op :: rest)) ∨
     (∃ (h66 : Bool) (rex : Option Rex) (op2 : Byte) (rest : List Byte), twoByteOpcode op2 = none ∧
        q.bytes = opsizeBytes h66 ++ (rexBytes rex ++ 0x0F#8 :: op2 :: rest)) ∨
     (∃ (rex : Option Rex) (opc : Opcode) (rest : List Byte), (opc = .op88 ∨ opc = .op8A ∨ opc = .opC6) ∧
        q.bytes = 0x66#8 :: (rexBytes rex ++ (opcodeBytes opc ++ rest))) ∨
     (∃ (h66 : Bool) (rex : Option Rex) (opc : Opcode) (b : Byte) (rest : List Byte),
        prefixesAccepted h66 rex opc = true ∧ (ModRM.ofByte b).mod = 0b11#2 ∧
        q.bytes = opsizeBytes h66 ++ (rexBytes rex ++ (opcodeBytes opc ++ b :: rest))) ∨
     (∃ (opc : Opcode) (field : BitVec 3) (m : MemOperand) (rest : List Byte), (opc = .op88 ∨ opc = .op8A) ∧
        memOk m = true ∧ 4 ≤ field.toNat ∧ q.bytes = assemble false none (opcodeBytes opc) field m [] ++ rest))

/-- Every opcode byte not in 30_encoding.md R59, and every `0x0F op2` not in R60, fails with `Unsupported`, after any
prefixes and whatever follows (30_encoding.md R61). A byte that is itself a REX prefix or a leading `0x66` is not in the
opcode position. -/
def Obligations.OtherOpcodesAreUnsupported : Prop :=
  (∀ (h66 : Bool) (rex : Option Rex) (op : Byte) (rest : List Byte), isRexByte op = false →
    (op = 0x66#8 → h66 = true ∨ rex.isSome = true) →
    op ∉ [0x88#8, 0x89#8, 0x8A#8, 0x8B#8, 0xC6#8, 0xC7#8, 0xF6#8, 0x0F#8] →
    decodeInstr (opsizeBytes h66 ++ (rexBytes rex ++ op :: rest)) = .error .unsupported) ∧
  ∀ (h66 : Bool) (rex : Option Rex) (op2 : Byte) (rest : List Byte), op2 ∉ [0xB6#8, 0xB7#8] →
    decodeInstr (opsizeBytes h66 ++ (rexBytes rex ++ 0x0F#8 :: op2 :: rest)) = .error .unsupported

/-- Two REX-shaped bytes in a row (30_encoding.md R56), and `0x66` with REX.W = 1 whatever the opcode (R57), fail with
`Unsupported`. -/
def Obligations.SecondRexAndSizeConflictAreUnsupported : Prop :=
  (∀ (h66 : Bool) (p : Rex) (b : Byte) (rest : List Byte), isRexByte b = true →
    decodeInstr (opsizeBytes h66 ++ p.toByte :: b :: rest) = .error .unsupported) ∧
  ∀ (p : Rex) (b : Byte) (rest : List Byte), p.w = true →
    decodeInstr (0x66#8 :: p.toByte :: b :: rest) = .error .unsupported

/-- The status codes (60_exceptions.md R145): 0 exactly on success, each failure its own code, and never 7. -/
def Obligations.StatusCodes : Prop :=
  (∀ r : Record, (portsOf (.ok r)).status = 0) ∧
  [Failure.invalidInput, .lengthExceeded, .outOfRange, .unsupported, .badState, .invalidArgs].map
      (fun e => (portsOf (.error e)).status.toNat) = [1, 2, 3, 4, 5, 6] ∧
  ∀ q : Request, (portsOf (respond q)).status ≠ 7

/-- On a failure every payload output is 0 (10_state.md R29). -/
def Obligations.FailurePayloadIsZero : Prop :=
  ∀ e : Failure, portsOf (.error e) =
    { status := statusCode e, type := 0, accessSize := 0, regValid := 0, regIndex := 0, imm := 0, flagsValid := 0,
      length := 0, destSize := 0 }

/-- The record invariants (10_state.md R26): `reg` is present exactly when the form has a register operand, and then
`imm = 0`; `flags` is present exactly for TEST; TEST has access size 1 and no `reg`. -/
def Obligations.RecordShape : Prop :=
  ∀ (q : Request) (i : Instr), decodeRequest q = .ok i →
    respond q = .ok (recordOf i) ∧
    (recordOf i).reg = regOperand i ∧ ((recordOf i).reg.isSome = true → (recordOf i).imm = 0) ∧
    ((recordOf i).flags = true ↔ (recordOf i).type = .test) ∧
    ((recordOf i).type = .test → (recordOf i).accessSize = .b1 ∧ (recordOf i).reg = none)

/-- The destination size (10_state.md R28): absent outside MOV_READ, and in a MOV_READ no smaller than the access. -/
def Obligations.DestinationSizeOnlyForLoads : Prop :=
  ∀ i : Instr, ((recordOf i).destSize.isSome = true ↔ (recordOf i).type = .movRead) ∧
    ∀ d, (recordOf i).destSize = some d → sizeBytes (recordOf i).accessSize ≤ sizeBytes d

/-! ## Flags -/

/-- The flags of a TEST, bit by bit (43_test.md R120 to R126): ZF, SF and PF from the AND of the operands, bit 1 set, every
other bit, CF, OF and AF among them, clear. -/
def Obligations.Test8FlagsBits : Prop :=
  ∀ (a b : Byte) (i : Nat),
    (test8flags a b).getLsbD i =
      if i = 1 then true
      else if i = 2 then decide (((List.range 8).countP fun k => (a &&& b).getLsbD k) % 2 = 0)
      else if i = 6 then decide (a &&& b = 0#8)
      else if i = 7 then (a &&& b).getLsbD 7
      else false

/-- The output of TEST8FLAGS takes only five values (43_test.md R126). -/
def Obligations.Test8FlagsTakesFiveValues : Prop :=
  ∀ a b : Byte, test8flags a b ∈ [0x02#64, 0x06#64, 0x46#64, 0x82#64, 0x86#64]

/-- TEST8FLAGS is symmetric (43_test.md R127), and gives the source's five vectors (95_test_vectors.md S1 to S5). -/
def Obligations.Test8FlagsVectorsAndSymmetry : Prop :=
  (∀ a b : Byte, test8flags a b = test8flags b a) ∧
  test8flags 1 1 = 0x2 ∧ test8flags 1 (-1) = 0x2 ∧ test8flags 3 3 = 0x6 ∧ test8flags 0 0 = 0x46 ∧
  test8flags (-1) (-1) = 0x86

/-- `MERGE` (45_reference_consumer.md R138): CF, PF, AF, ZF, SF and OF from the new flags, every other bit unchanged. -/
def Obligations.MergeReplacesStatusFlagsOnly : Prop :=
  ∀ (old f : Word) (i : Nat), i < 64 →
    (mergeFlags old f).getLsbD i = if i ∈ [0, 2, 4, 6, 7, 11] then f.getLsbD i else old.getLsbD i

/-! ## Register views -/

/-- `READ(i, n)` is bits `8n-1:0` of the register (45_reference_consumer.md R132). -/
def Obligations.ReadViewIsLowBits : Prop :=
  ∀ (r : Reg) (n : Size) (s : State) (k : Nat),
    (readReg r n s).getLsbD k = (decide (k < 8 * sizeBytes n) && (getGpr r s).getLsbD k)

/-- `WRITE(i, n, v)` (45_reference_consumer.md R133), bit by bit: 8- and 16-bit writes keep the upper bits, a 32-bit write
clears them, a 64-bit write replaces the register; every other register and `rflags` stay. -/
def Obligations.WriteViewMergesOrExtends : Prop :=
  (∀ (r : Reg) (v : Word) (s : State) (k : Nat), k < 64 →
    (getGpr r (writeReg r .b1 v s)).getLsbD k = (if k < 8 then v.getLsbD k else (getGpr r s).getLsbD k) ∧
    (getGpr r (writeReg r .b2 v s)).getLsbD k = (if k < 16 then v.getLsbD k else (getGpr r s).getLsbD k) ∧
    (getGpr r (writeReg r .b4 v s)).getLsbD k = (if k < 32 then v.getLsbD k else false) ∧
    (getGpr r (writeReg r .b8 v s)).getLsbD k = v.getLsbD k) ∧
  ∀ (r : Reg) (n : Size) (v : Word) (s : State),
    (∀ q : Reg, q ≠ r → getGpr q (writeReg r n v s) = getGpr q s) ∧ (writeReg r n v s).rflags = s.rflags

/-! ## The device -/

/-- A read of a RAM-like device is the little-endian number of the bytes at the fault address, zero above them
(45_reference_consumer.md R139). THE MODEL'S CHOICE (log 12, DEDUCED): byte `k` is at `fa + k` modulo 2^64, so an access
past the last address wraps; the spec does not say what it does there. -/
def Obligations.RamReadIsLittleEndian : Prop :=
  ∀ (n : Size) (s : State), s.dev.kind = .ram →
    ∀ k < 8, byteOf (deviceAnswer n s) k = if k < sizeBytes n then devByte s (accessAddr s k) else 0#8

/-- A RAM-like device returns the bytes last written (45_reference_consumer.md R139): a read after a store of the same size
at the same address gives the low bytes stored. THE MODEL'S CHOICE (log 12, DEDUCED): both wrap past the last address. -/
def Obligations.RamReadsBackLastWrite : Prop :=
  ∀ (n : Size) (v : Word) (s : State), Memory.wf s.dev.cells = true → s.dev.kind = .ram →
    deviceAnswer n (deviceStore n v s) = lowBytes n v

/-- Each applied instruction makes exactly one device access, of its access size, at the fault address, a write exactly for
MOV_WRITE (20_memory.md R44, R46, 45_reference_consumer.md R130, R139). That reads stand in the trace too is THE MODEL'S
CHOICE (log 19). -/
def Obligations.OneDeviceAccessPerInstruction : Prop :=
  ∀ (i : Instr) (s t : State), exec i s = .next t →
    ∃ a : DevAccess, t.dev.trace = a :: s.dev.trace ∧ a.addr = s.trap.fa ∧ a.size = accessSizeOf i ∧
      (a.kind = .write ↔ (recordOf i).type = .movWrite)

/-- THE MODEL'S CHOICE (log 9): the access of a form is refused exactly when the device refuses misaligned accesses and the
fault address is no multiple of the access size, and then the form stops by that name. -/
def Obligations.MisalignedAccessStops : Prop :=
  (∀ (n : Size) (s : State), accessServed n s = true ↔
    (s.dev.misaligned = .served ∨ sizeBytes n ∣ s.trap.fa.toNat)) ∧
  ∀ (i : Instr) (s : State), accessServed (accessSizeOf i) s = false → exec i s = .refused .misalignedAccess

/-! ## What each instruction does -/

/-- `movb`, `movw`, `movl`, `movq` from a register to memory (41_mov.md R100 to R103, 45_reference_consumer.md R134): the
low 1, 2, 4 or 8 bytes of the register go to the fault address (R139), and nothing else changes but `rip` (R131). THE
MODEL'S CHOICES in it: the bytes' addresses `fa + k` wrap modulo 2^64 (log 12, DEDUCED); a store leaves the guest's code
unchanged (log 11, DEDUCED); the access is recorded in the trace and the bytes are kept for either kind of device (log 19). -/
def Obligations.RegisterStoresWriteLowBytes : Prop :=
  ∀ (rex : Option Rex) (reg : Reg) (m : MemOperand) (s : State), Memory.wf s.dev.cells = true →
    (accessServed .b1 s = true → ∃ t, exec (.movM8R8 rex reg m) s = .next t ∧
      StoreEffect .b1 (getGpr reg s) (Instr.movM8R8 rex reg m).length s t) ∧
    (accessServed .b2 s = true → ∃ t, exec (.movM16R16 rex reg m) s = .next t ∧
      StoreEffect .b2 (getGpr reg s) (Instr.movM16R16 rex reg m).length s t) ∧
    (accessServed .b4 s = true → ∃ t, exec (.movM32R32 rex reg m) s = .next t ∧
      StoreEffect .b4 (getGpr reg s) (Instr.movM32R32 rex reg m).length s t) ∧
    (accessServed .b8 s = true → ∃ t, exec (.movM64R64 rex reg m) s = .next t ∧
      StoreEffect .b8 (getGpr reg s) (Instr.movM64R64 rex reg m).length s t)

/-- `movb`, `movw`, `movl`, `movq` of an immediate to memory (41_mov.md R108 to R111, 45_reference_consumer.md R135): the
immediate's bytes, sign-extended from 4 to 8 bytes for `movq`, go to the fault address (R139), and nothing else changes but
`rip` (R131). THE MODEL'S CHOICES in it: the bytes' addresses `fa + k` wrap modulo 2^64 (log 12, DEDUCED); a store leaves
the guest's code unchanged (log 11, DEDUCED); the access is recorded in the trace and the bytes are kept for either kind of
device (log 19). -/
def Obligations.ImmediateStoresWriteImmediate : Prop :=
  ∀ (rex : Option Rex) (m : MemOperand) (i8 : BitVec 8) (i16 : BitVec 16) (i32 : BitVec 32) (s : State),
    Memory.wf s.dev.cells = true →
    (accessServed .b1 s = true → ∃ t, exec (.movM8I8 rex m i8) s = .next t ∧
      StoreEffect .b1 (i8.setWidth 64) (Instr.movM8I8 rex m i8).length s t) ∧
    (accessServed .b2 s = true → ∃ t, exec (.movM16I16 rex m i16) s = .next t ∧
      StoreEffect .b2 (i16.setWidth 64) (Instr.movM16I16 rex m i16).length s t) ∧
    (accessServed .b4 s = true → ∃ t, exec (.movM32I32 rex m i32) s = .next t ∧
      StoreEffect .b4 (i32.setWidth 64) (Instr.movM32I32 rex m i32).length s t) ∧
    (accessServed .b8 s = true → ∃ t, exec (.movM64I32 rex m i32) s = .next t ∧
      StoreEffect .b8 (i32.signExtend 64) (Instr.movM64I32 rex m i32).length s t)

/-- `movb`, `movw`, `movl`, `movq` from memory to a register (41_mov.md R104 to R107, 45_reference_consumer.md R136): the
value read replaces the low 8 or 16 bits, or is zero-extended from 32, or replaces all 64; nothing else changes but `rip`.
THE MODEL'S CHOICE: the read is recorded in the trace (log 19). -/
def Obligations.LoadsWriteTheRegisterView : Prop :=
  ∀ (rex : Option Rex) (reg : Reg) (m : MemOperand) (s : State),
    (accessServed .b1 s = true → ∃ t, exec (.movR8M8 rex reg m) s = .next t ∧
      LoadEffect .b1 reg ((getGpr reg s &&& 0xFFFFFFFFFFFFFF00) ||| deviceAnswer .b1 s)
        (Instr.movR8M8 rex reg m).length s t) ∧
    (accessServed .b2 s = true → ∃ t, exec (.movR16M16 rex reg m) s = .next t ∧
      LoadEffect .b2 reg ((getGpr reg s &&& 0xFFFFFFFFFFFF0000) ||| deviceAnswer .b2 s)
        (Instr.movR16M16 rex reg m).length s t) ∧
    (accessServed .b4 s = true → ∃ t, exec (.movR32M32 rex reg m) s = .next t ∧
      LoadEffect .b4 reg (deviceAnswer .b4 s) (Instr.movR32M32 rex reg m).length s t) ∧
    (accessServed .b8 s = true → ∃ t, exec (.movR64M64 rex reg m) s = .next t ∧
      LoadEffect .b8 reg (deviceAnswer .b8 s) (Instr.movR64M64 rex reg m).length s t)

/-- The zero-extending moves (42_movzx.md R112 to R116, 45_reference_consumer.md R136): `movzbw` keeps bits 63:16 of the
register, the other four clear every bit above the source; nothing else changes but `rip`. THE MODEL'S CHOICE: the read is
recorded in the trace (log 19). -/
def Obligations.ZeroExtendingLoadsClearUpperBits : Prop :=
  ∀ (rex : Option Rex) (reg : Reg) (m : MemOperand) (s : State),
    (accessServed .b1 s = true → ∃ t, exec (.movzxR16M8 rex reg m) s = .next t ∧
      LoadEffect .b1 reg ((getGpr reg s &&& 0xFFFFFFFFFFFF0000) ||| deviceAnswer .b1 s)
        (Instr.movzxR16M8 rex reg m).length s t) ∧
    (accessServed .b1 s = true → ∃ t, exec (.movzxR32M8 rex reg m) s = .next t ∧
      LoadEffect .b1 reg (deviceAnswer .b1 s) (Instr.movzxR32M8 rex reg m).length s t) ∧
    (accessServed .b1 s = true → ∃ t, exec (.movzxR64M8 rex reg m) s = .next t ∧
      LoadEffect .b1 reg (deviceAnswer .b1 s) (Instr.movzxR64M8 rex reg m).length s t) ∧
    (accessServed .b2 s = true → ∃ t, exec (.movzxR32M16 rex reg m) s = .next t ∧
      LoadEffect .b2 reg (deviceAnswer .b2 s) (Instr.movzxR32M16 rex reg m).length s t) ∧
    (accessServed .b2 s = true → ∃ t, exec (.movzxR64M16 rex reg m) s = .next t ∧
      LoadEffect .b2 reg (deviceAnswer .b2 s) (Instr.movzxR64M16 rex reg m).length s t)

/-- `testb` (43_test.md R117, 45_reference_consumer.md R137): the flags of the byte read ANDed with the immediate are merged
into `rflags`; no register and no byte of the device changes. THE MODEL'S CHOICE: the read is recorded in the trace
(log 19). -/
def Obligations.TestMergesFlagsOfAnd : Prop :=
  ∀ (rex : Option Rex) (m : MemOperand) (imm : BitVec 8) (s : State), accessServed .b1 s = true →
    ∃ t, exec (.testM8I8 rex m imm) s = .next t ∧
      TestEffect (mergeFlags s.rflags (test8flags (byteOf (deviceAnswer .b1 s) 0) imm))
        (Instr.testM8I8 rex m imm).length s t

/-- Each instruction's meaning is the application of its record (45_reference_consumer.md R130). -/
def Obligations.MeaningAppliesRecord : Prop :=
  ∀ (i : Instr) (s : State), exec i s = applyRecord (recordOf i) s

/-! ## The step -/

/-- A STEP RUNS THE DECODED INSTRUCTION: when the captured bytes of a valid call decode to `i`, the step is `exec i` with the
request taken into service (45_reference_consumer.md R130). The list of requests is THE MODEL'S CHOICE (log 2). -/
def Obligations.StepRunsDecodedInstruction : Prop :=
  ∀ (s : State) (t : Trap) (rest : List Trap) (i : Instr), s.halted = none → s.traps = t :: rest →
    validCall (requestOf s t) → (decodeInstr (requestOf s t).bytes).map Prod.fst = .ok i →
    step s = exec i (beginTrap t rest s)

/-- The step on a request is `EMULATE` of 45_reference_consumer.md R130 over `DECODE` of 40_decoder.md R84; a halted consumer
takes none. THE MODEL'S CHOICES in it: 'no step' of a halted consumer is the fault `halted` (log 4, DEDUCED); the requests
are a list in the state (log 2); a request may have `present = false`, where R130 always has `buf_present = 1` (log 31). -/
def Obligations.StepIsEmulate : Prop :=
  (∀ (s : State) (e : Failure), s.halted = some e → step s = .fault (.halted e)) ∧
  ∀ (s : State) (t : Trap) (rest : List Trap), s.halted = none → s.traps = t :: rest →
    step s = emulateR130 (beginTrap t rest s) t

/-- A failure changes no register, flag, `rip` or device state and sets `halted`, and there is no further step
(45_reference_consumer.md R141). THE MODEL'S CHOICES in it: 'no further step' is the fault `halted` (log 4, DEDUCED); a
request with an absent buffer halts the consumer with `InvalidInput` (log 31). -/
def Obligations.FailureHaltsTheConsumer : Prop :=
  ∀ (s : State) (e : Failure), pendingResponse s = some (.error e) →
    ∃ t, step s = .next t ∧ t.halted = some e ∧ t.gpr = s.gpr ∧ t.rflags = s.rflags ∧ t.rip = s.rip ∧
      t.dev = s.dev ∧ t.code = s.code ∧ step t = .fault (.halted e)

/-- THE MODEL'S CHOICE (log 3): with no request pending there is no response and the step changes nothing. -/
def Obligations.NoRequestNoResponse : Prop :=
  ∀ s : State, s.halted = none → s.traps = [] → pendingResponse s = none ∧ step s = .next s

/-- `rip` advances by the consumed length, modulo 2^64, and nothing else moves it (45_reference_consumer.md R131, R141). That
a step with no request pending keeps `rip` is THE MODEL'S CHOICE (log 3). -/
def Obligations.RipAdvancesByConsumedLength : Prop :=
  (∀ (s t : State) (r : Record), pendingResponse s = some (.ok r) → step s = .next t →
    t.rip.toNat = (s.rip.toNat + r.length) % 2 ^ 64) ∧
  ∀ s t : State, (∀ r, pendingResponse s ≠ some (.ok r)) → step s = .next t → t.rip = s.rip

/-- No step changes a bit of `rflags` other than the six status flags, and only a TEST record changes those
(45_reference_consumer.md R134, R136, R138). -/
def Obligations.OnlyTestChangesFlags : Prop :=
  ∀ s t : State, step s = .next t →
    (∀ k < 64, k ∉ [0, 2, 4, 6, 7, 11] → t.rflags.getLsbD k = s.rflags.getLsbD k) ∧
    ((∀ r, pendingResponse s = some (.ok r) → r.type ≠ .test) → t.rflags = s.rflags)

/-- A register changes only as the destination of a MOV_READ record (10_state.md R25, 45_reference_consumer.md R130). -/
def Obligations.OnlyLoadsChangeRegisters : Prop :=
  ∀ (s t : State) (q : Reg), step s = .next t → getGpr q t ≠ getGpr q s →
    ∃ r, pendingResponse s = some (.ok r) ∧ r.type = .movRead ∧ r.reg = some q

/-- A byte of the device changes only under a MOV_WRITE record, and only within its `access_size` bytes at the fault address
of the request (20_memory.md R44, 45_reference_consumer.md R130). THE MODEL'S CHOICE (log 12, DEDUCED): the bytes of the
access are `fa + k` modulo 2^64, so an access past the last address wraps. -/
def Obligations.OnlyStoresChangeTheDevice : Prop :=
  ∀ (s t : State) (a : Nat), Memory.wf s.dev.cells = true → step s = .next t → devByte t a ≠ devByte s a →
    ∃ r, pendingResponse s = some (.ok r) ∧ r.type = .movWrite ∧ s.traps.head? = some t.trap ∧
      ∃ k < sizeBytes r.accessSize, a = accessAddr t k

/-- No step writes the guest's code or a parameter of the device, and a step takes at most the next request. THE MODEL'S
CHOICES, no rule of the spec: a store goes to the device and never to the guest's code (log 11, DEDUCED, from
45_reference_consumer.md R139 and R142); the device's parameters are fields that no step changes (log 6); the requests are a
list, of which a step takes the first (log 2), a failing request as a served one (log 18), and nothing where none is
pending (log 3). -/
def Obligations.StepKeepsCodeAndParameters : Prop :=
  ∀ s t : State, step s = .next t →
    t.code = s.code ∧ t.dev.kind = s.dev.kind ∧ t.dev.misaligned = s.dev.misaligned ∧ t.traps = s.traps.tail

/-- The response does not depend on the contents of the snapshot (10_state.md R21), nor on the device. -/
def Obligations.ResponseIgnoresSnapshot : Prop :=
  ∀ s s' : State, s.code = s'.code → s.rip = s'.rip → s.halted = s'.halted → s.traps = s'.traps →
    pendingResponse s = pendingResponse s'

/-! ## Invariant and reset -/

/-- Every step keeps the invariant `State.Inv`: canonical memories, bit 1 of `rflags`, accesses that fit their size. -/
def Obligations.StepKeepsInvariant : Prop :=
  ∀ s t : State, s.Inv → step s = .next t → t.Inv

/-- The reset state meets the invariant. Its values are THE MODEL'S CHOICE (log 5, log 6). -/
def Obligations.ResetMeetsInvariant : Prop :=
  State.reset.Inv

/-- THE MODEL'S CHOICE (log 5, log 6, log 7): what reset leaves, the spec giving no value for any of it. -/
def Obligations.ResetValues : Prop :=
  (∀ r : Reg, getGpr r State.reset = 0) ∧ State.reset.rflags = 0x2 ∧ State.reset.rip = 0 ∧
  State.reset.halted = none ∧ State.reset.traps = [] ∧ State.reset.dev.trace = [] ∧
  (∀ a, devByte State.reset a = 0) ∧ ∀ a, readByte State.reset.code a = 0

/-- THE MODEL'S OWN INTERFACE (log 13, log 26): after placing a word, the next capture holds its bytes, and every other byte
of code is unchanged. The capture's addresses wrap (log 12, DEDUCED). -/
def Obligations.PlacedWordIsCaptured : Prop :=
  ∀ (s : State) (nbits w : Nat), Memory.wf s.code = true →
    (∀ (k : Nat) (h : k < 15), (captured (s.withFetchWord nbits w))[k] = tableByte nbits w k) ∧
    ∀ a, (∀ k < 15, a ≠ codeAddr s k) → readByte (s.withFetchWord nbits w).code a = readByte s.code a

/-- THE MODEL'S OWN INTERFACE (log 13, log 26): the very next step after placing a word runs the instruction the decoder
reads from it. -/
def Obligations.StepRunsPlacedWord : Prop :=
  ∀ (s : State) (nbits w : Nat) (i : Instr), Memory.wf s.code = true → decodeTableWord nbits w = some i →
    step (s.withFetchWord nbits w) = exec i (beginTrap (fullRequest s) s.traps (s.withFetchWord nbits w))
end

