-- ==== Sys2Proof/Laws/Decode.lean ====
section
/-! SUPPORT. The small lemmas of the encoding: each byte's fields there and back, and the register table. -/

namespace Sys2Proof

@[simp] theorem isRexByte_toByte (p : Rex) : isRexByte p.toByte = true := by
  obtain ⟨w, r, x, b⟩ := p
  cases w <;> cases r <;> cases x <;> cases b <;> rfl

@[simp] theorem ofByte_rex_toByte (p : Rex) : Rex.ofByte p.toByte = p := by
  obtain ⟨w, r, x, b⟩ := p
  cases w <;> cases r <;> cases x <;> cases b <;> rfl

/-- A REX byte is the byte of its four bits. -/
theorem rex_toByte_ofByte {b : Byte} (h : isRexByte b = true) : (Rex.ofByte b).toByte = b := by
  revert b
  decide

@[simp] theorem modrm_ofByte_toByte (m : ModRM) : ModRM.ofByte m.toByte = m := by
  obtain ⟨a, b, c⟩ := m
  revert a b c
  decide

@[simp] theorem modrm_toByte_ofByte (b : Byte) : (ModRM.ofByte b).toByte = b := by
  revert b
  decide

@[simp] theorem sib_ofByte_toByte (s : Sib) : Sib.ofByte s.toByte = s := by
  obtain ⟨a, b, c⟩ := s
  revert a b c
  decide

@[simp] theorem sib_toByte_ofByte (b : Byte) : (Sib.ofByte b).toByte = b := by
  revert b
  decide

@[simp] theorem reg_ofField_high_field (r : Reg) : Reg.ofField r.high r.field = r := by
  cases r <;> rfl

@[simp] theorem reg_high_ofField (h : Bool) (f : BitVec 3) : (Reg.ofField h f).high = h := by
  revert h f
  decide

@[simp] theorem reg_field_ofField (h : Bool) (f : BitVec 3) : (Reg.ofField h f).field = f := by
  revert h f
  decide

/-- The four bytes of a 32-bit field put together again. -/
theorem append_bytes32 (v : BitVec 32) :
    v.extractLsb' 24 8 ++ v.extractLsb' 16 8 ++ v.extractLsb' 8 8 ++ v.extractLsb' 0 8 = v := by
  refine BitVec.eq_of_getLsbD_eq fun i hi => ?_
  simp only [BitVec.getLsbD_append, BitVec.getLsbD_extractLsb']
  split
  · simp [*]
  · split
    · rw [decide_eq_true (by omega), Bool.true_and]; congr 1; omega
    · split
      · rw [decide_eq_true (by omega), Bool.true_and]; congr 1; omega
      · rw [decide_eq_true (by omega), Bool.true_and]; congr 1; omega

/-- The two bytes of a 16-bit field put together again. -/
theorem append_bytes16 (v : BitVec 16) : v.extractLsb' 8 8 ++ v.extractLsb' 0 8 = v := by
  refine BitVec.eq_of_getLsbD_eq fun i hi => ?_
  simp only [BitVec.getLsbD_append, BitVec.getLsbD_extractLsb']
  split
  · simp [*]
  · rw [decide_eq_true (by omega), Bool.true_and]; congr 1; omega

/-- The bytes of a 32-bit field that was put together from four. -/
theorem bytes32_append (b0 b1 b2 b3 : Byte) : bytes32 (b3 ++ b2 ++ b1 ++ b0) = [b0, b1, b2, b3] := by
  simp only [bytes32, List.cons.injEq, and_true]
  refine ⟨?_, ?_, ?_, ?_⟩ <;>
    (refine BitVec.eq_of_getLsbD_eq fun i hi => ?_
     simp only [BitVec.getLsbD_append, BitVec.getLsbD_extractLsb', decide_eq_true hi, Bool.true_and])
  · simp [hi]
  · simp [show ¬(8 + i < 8) by omega, show 8 + i - 8 = i by omega, hi]
  · simp [show ¬(16 + i < 8) by omega, show ¬(16 + i - 8 < 8) by omega, show 16 + i - 8 - 8 = i by omega, hi]
  · simp [show ¬(24 + i < 8) by omega, show ¬(24 + i - 8 < 8) by omega, show ¬(24 + i - 8 - 8 < 8) by omega,
      show 24 + i - 8 - 8 - 8 = i by omega]

/-- The bytes of a 16-bit field that was put together from two. -/
theorem bytes16_append (b0 b1 : Byte) : bytes16 (b1 ++ b0) = [b0, b1] := by
  simp only [bytes16, List.cons.injEq, and_true]
  refine ⟨?_, ?_⟩ <;>
    (refine BitVec.eq_of_getLsbD_eq fun i hi => ?_
     simp only [BitVec.getLsbD_append, BitVec.getLsbD_extractLsb', decide_eq_true hi, Bool.true_and])
  · simp [hi]
  · simp [show ¬(8 + i < 8) by omega, show 8 + i - 8 = i by omega]

/-! ## One stage after its bytes were written -/

theorem takeOpsize_true (bs : List Byte) : takeOpsize (opsizeBytes true ++ bs) = (true, bs) := rfl

theorem takeOpsize_false {b : Byte} (h : b ≠ 0x66#8) (bs : List Byte) : takeOpsize (b :: bs) = (false, b :: bs) := by
  simp [takeOpsize, h]

theorem takeRex_some (p : Rex) {op : Byte} (h : isRexByte op = false) (bs : List Byte) :
    takeRex (p.toByte :: op :: bs) = .ok (some p, op, bs) := by
  simp [takeRex, h]

theorem takeRex_none {op : Byte} (h : isRexByte op = false) (bs : List Byte) :
    takeRex (op :: bs) = .ok (none, op, bs) := by
  simp [takeRex, h]

theorem takeDisp_dispBytes (d : Disp) (bs : List Byte) : takeDisp d.size (dispBytes d ++ bs) = .ok (d, bs) := by
  cases d with
  | none => rfl
  | d8 v => rfl
  | d32 v => simp [Disp.size, dispBytes, bytes32, takeDisp, append_bytes32]

theorem takeImm_bytes32 (v : BitVec 32) (bs : List Byte) :
    takeImm 4 (bytes32 v ++ bs) = .ok (v.setWidth 64, bs) := by
  simp [bytes32, takeImm, append_bytes32]

theorem takeImm_bytes16 (v : BitVec 16) (bs : List Byte) :
    takeImm 2 (bytes16 v ++ bs) = .ok (v.setWidth 64, bs) := by
  simp [bytes16, takeImm, append_bytes16]

theorem takeImm_byte (v : BitVec 8) (bs : List Byte) : takeImm 1 (v :: bs) = .ok (v.setWidth 64, bs) := rfl

theorem takeSib_sibBytes {rm : BitVec 3} {s : Option Sib} (h : s.isSome = (rm == 0b100#3)) (bs : List Byte) :
    takeSib rm (sibBytes s ++ bs) = .ok (s, bs) := by
  cases s with
  | none =>
    have : rm ≠ 0b100#3 := by simpa using h
    simp [takeSib, sibBytes, this]
  | some s =>
    have : rm = 0b100#3 := by simpa using h
    simp [takeSib, sibBytes, this]

end Sys2Proof
end

