-- ==== Sys2Proof/Laws/Memory.lean ====
section
/-! SUPPORT. The laws of a byte memory: a read after a write, and the canonical form kept by every operation. -/

namespace Sys2Proof.Machine

theorem readByte_putByte (a b x : _) (m : Memory) (h : readByte m a = Config.unlistedByte) :
    readByte (putByte a b m) x = if x = a then b else readByte m x := by
  unfold putByte
  split
  · split
    · simp_all
    · rfl
  · by_cases hx : x = a
    · simp [readByte, hx]
    · simp [readByte, hx, Ne.symm hx]

/-- Below every listed address a memory reads as unlisted. -/
theorem readByte_below {lo : Nat} {m : Memory} (h : Memory.wfFrom lo m = true) {a : Nat} (ha : a < lo) :
    readByte m a = Config.unlistedByte := by
  induction m generalizing lo with
  | nil => rfl
  | cons c m ih =>
    obtain ⟨a', b⟩ := c
    simp only [Memory.wfFrom, Bool.and_eq_true, decide_eq_true_eq] at h
    have hne : a' ≠ a := by omega
    simp only [readByte, hne, if_false]
    exact ih h.2 (by omega)

theorem wfFrom_mono {lo hi : Nat} {m : Memory} (h : Memory.wfFrom hi m = true) (le : lo ≤ hi) :
    Memory.wfFrom lo m = true := by
  cases m with
  | nil => rfl
  | cons c m =>
    simp only [Memory.wfFrom, Bool.and_eq_true, decide_eq_true_eq] at h ⊢
    exact ⟨⟨⟨by omega, h.1.1.2⟩, h.1.2⟩, h.2⟩

/-- A read after a write, in a memory in canonical form. -/
theorem readByte_writeByte {lo : Nat} {m : Memory} (h : Memory.wfFrom lo m = true) (a : Nat) (b : Byte) (x : Nat) :
    readByte (writeByte m a b) x = if x = a then b else readByte m x := by
  induction m generalizing lo with
  | nil => exact readByte_putByte a b x [] rfl
  | cons c m ih =>
    obtain ⟨a', b'⟩ := c
    simp only [Memory.wfFrom, Bool.and_eq_true, decide_eq_true_eq] at h
    unfold writeByte
    split
    · rename_i hlt
      refine readByte_putByte a b x _ (readByte_below (lo := a') ?_ hlt)
      simp only [Memory.wfFrom, Bool.and_eq_true, decide_eq_true_eq]
      exact ⟨⟨⟨le_refl _, h.1.1.2⟩, h.1.2⟩, h.2⟩
    · split
      · rename_i _ heq
        subst heq
        rw [readByte_putByte a b x m (readByte_below h.2 (by omega))]
        by_cases hx : x = a
        · simp [hx]
        · simp [readByte, hx, Ne.symm hx]
      · rename_i _ hne
        simp only [readByte]
        by_cases hx : a' = x
        · have : x ≠ a := fun e => hne (by omega)
          simp [hx, this]
        · simp [hx, ih h.2]

theorem wfFrom_putByte {lo a : Nat} {b : Byte} {m : Memory} (h : Memory.wfFrom (a + 1) m = true) (hl : lo ≤ a)
    (ha : a < 2 ^ 64) : Memory.wfFrom lo (putByte a b m) = true := by
  unfold putByte
  split
  · exact wfFrom_mono h (by omega)
  · simp_all [Memory.wfFrom]

theorem wfFrom_writeByte {lo a : Nat} {b : Byte} {m : Memory} (h : Memory.wfFrom lo m = true) (hl : lo ≤ a)
    (ha : a < 2 ^ 64) : Memory.wfFrom lo (writeByte m a b) = true := by
  induction m generalizing lo with
  | nil => exact wfFrom_putByte rfl hl ha
  | cons c m ih =>
    obtain ⟨a', b'⟩ := c
    have h' := h
    simp only [Memory.wfFrom, Bool.and_eq_true, decide_eq_true_eq] at h
    unfold writeByte
    split
    · refine wfFrom_putByte ?_ hl ha
      simp only [Memory.wfFrom, Bool.and_eq_true, decide_eq_true_eq]
      exact ⟨⟨⟨by omega, h.1.1.2⟩, h.1.2⟩, h.2⟩
    · split
      · rename_i _ heq
        subst heq
        exact wfFrom_putByte h.2 hl ha
      · simp only [Memory.wfFrom, Bool.and_eq_true, decide_eq_true_eq]
        exact ⟨h.1, ih h.2 (by omega)⟩

/-- A byte write keeps the canonical form. -/
theorem wf_writeByte {a : Nat} {b : Byte} {m : Memory} (h : Memory.wf m = true) (ha : a < 2 ^ 64) :
    Memory.wf (writeByte m a b) = true :=
  wfFrom_writeByte h (Nat.zero_le _) ha

/-- A wide write keeps the canonical form. -/
theorem wf_writeBytes (n : Nat) (a : Addr) (v : Word) {m : Memory} (h : Memory.wf m = true) :
    Memory.wf (writeBytes n a v m) = true := by
  induction n generalizing a v m with
  | zero => exact h
  | succ n ih => exact ih _ _ (wf_writeByte h a.isLt)

/-- Storing a word's bytes for the next fetch keeps the canonical form. -/
theorem wf_storeCode (s : State) (nbits w : Nat) (ks : List Nat) {m : Memory} (h : Memory.wf m = true) :
    Memory.wf (storeCode s nbits w ks m) = true := by
  induction ks generalizing m with
  | nil => exact h
  | cons k ks ih => exact ih (wf_writeByte h (BitVec.isLt _))

/-- Memories of the reset state are in canonical form. -/
theorem wf_reset : Memory.wf State.reset.code = true ∧ Memory.wf State.reset.dev.cells = true :=
  ⟨rfl, rfl⟩

/-- A read after a write at the same address, whatever the memory's form. -/
theorem readByte_writeByte_self (m : Memory) (h : Memory.wf m = true) (a : Nat) (b : Byte) :
    readByte (writeByte m a b) a = b := by
  rw [readByte_writeByte h, if_pos rfl]

/-- A wide write leaves every byte outside it as it was. -/
theorem readByte_writeBytes_other (n : Nat) (a : Addr) (v : Word) {m : Memory} (h : Memory.wf m = true) (x : Nat)
    (hx : ∀ k < n, x ≠ (a + BitVec.ofNat 64 k).toNat) : readByte (writeBytes n a v m) x = readByte m x := by
  induction n generalizing a v m with
  | zero => rfl
  | succ n ih =>
    have h0 : x ≠ a.toNat := by simpa using hx 0 (by omega)
    rw [writeBytes, ih _ _ (wf_writeByte h a.isLt), readByte_writeByte h, if_neg h0]
    intro k hk
    have := hx (k + 1) (by omega)
    rwa [show a + BitVec.ofNat 64 (k + 1) = a + 1 + BitVec.ofNat 64 k by
      rw [Nat.add_comm, BitVec.ofNat_add]; ac_rfl] at this

/-- A wide write of fewer than 2^64 bytes puts byte `k` of the value at the `k`th address, modulo 2^64. -/
theorem readByte_writeBytes_byte (n : Nat) (a : Addr) (v : Word) {m : Memory} (h : Memory.wf m = true) (hn : n < 2 ^ 64)
    (k : Nat) (hk : k < n) :
    readByte (writeBytes n a v m) (a + BitVec.ofNat 64 k).toNat = v.extractLsb' (8 * k) 8 := by
  induction n generalizing a v m k with
  | zero => omega
  | succ n ih =>
    cases k with
    | zero =>
      rw [writeBytes, readByte_writeBytes_other n _ _ (wf_writeByte h a.isLt)]
      · simp only [BitVec.add_zero]
        rw [readByte_writeByte_self m h]
        ext i hi
        simp
      · intro j hj he
        have := BitVec.eq_of_toNat_eq he
        bv_omega
    | succ k =>
      rw [writeBytes, show a + BitVec.ofNat 64 (k + 1) = a + 1 + BitVec.ofNat 64 k by
        rw [Nat.add_comm, BitVec.ofNat_add]; ac_rfl, ih _ _ (wf_writeByte h a.isLt) (by omega) k (by omega)]
      ext i hi
      simp
      congr 1
      omega

end Sys2Proof.Machine
end

