-- ==== Sys2Proof/Laws/State.lean ====
section
/-! SUPPORT. One lemma per field per update of the state, each true by definition. -/

namespace Sys2Proof.Machine

variable (s : State)

@[simp] theorem setRflags_gpr (v : Word) : (setRflags v s).gpr = s.gpr := rfl
@[simp] theorem setRflags_rflags (v : Word) : (setRflags v s).rflags = v := rfl
@[simp] theorem setRflags_rip (v : Word) : (setRflags v s).rip = s.rip := rfl
@[simp] theorem setRflags_code (v : Word) : (setRflags v s).code = s.code := rfl
@[simp] theorem setRflags_dev (v : Word) : (setRflags v s).dev = s.dev := rfl
@[simp] theorem setRflags_halted (v : Word) : (setRflags v s).halted = s.halted := rfl
@[simp] theorem setRflags_trap (v : Word) : (setRflags v s).trap = s.trap := rfl
@[simp] theorem setRflags_traps (v : Word) : (setRflags v s).traps = s.traps := rfl

@[simp] theorem setRip_gpr (v : Word) : (setRip v s).gpr = s.gpr := rfl
@[simp] theorem setRip_rflags (v : Word) : (setRip v s).rflags = s.rflags := rfl
@[simp] theorem setRip_rip (v : Word) : (setRip v s).rip = v := rfl
@[simp] theorem setRip_code (v : Word) : (setRip v s).code = s.code := rfl
@[simp] theorem setRip_dev (v : Word) : (setRip v s).dev = s.dev := rfl
@[simp] theorem setRip_halted (v : Word) : (setRip v s).halted = s.halted := rfl
@[simp] theorem setRip_trap (v : Word) : (setRip v s).trap = s.trap := rfl
@[simp] theorem setRip_traps (v : Word) : (setRip v s).traps = s.traps := rfl

@[simp] theorem setDev_gpr (d : Device) : (setDev d s).gpr = s.gpr := rfl
@[simp] theorem setDev_rflags (d : Device) : (setDev d s).rflags = s.rflags := rfl
@[simp] theorem setDev_rip (d : Device) : (setDev d s).rip = s.rip := rfl
@[simp] theorem setDev_code (d : Device) : (setDev d s).code = s.code := rfl
@[simp] theorem setDev_dev (d : Device) : (setDev d s).dev = d := rfl
@[simp] theorem setDev_halted (d : Device) : (setDev d s).halted = s.halted := rfl
@[simp] theorem setDev_trap (d : Device) : (setDev d s).trap = s.trap := rfl
@[simp] theorem setDev_traps (d : Device) : (setDev d s).traps = s.traps := rfl

@[simp] theorem setCode_gpr (m : Memory) : (setCode m s).gpr = s.gpr := rfl
@[simp] theorem setCode_rflags (m : Memory) : (setCode m s).rflags = s.rflags := rfl
@[simp] theorem setCode_rip (m : Memory) : (setCode m s).rip = s.rip := rfl
@[simp] theorem setCode_code (m : Memory) : (setCode m s).code = m := rfl
@[simp] theorem setCode_dev (m : Memory) : (setCode m s).dev = s.dev := rfl
@[simp] theorem setCode_halted (m : Memory) : (setCode m s).halted = s.halted := rfl
@[simp] theorem setCode_trap (m : Memory) : (setCode m s).trap = s.trap := rfl
@[simp] theorem setCode_traps (m : Memory) : (setCode m s).traps = s.traps := rfl

@[simp] theorem beginTrap_gpr (t : Trap) (rest : List Trap) : (beginTrap t rest s).gpr = s.gpr := rfl
@[simp] theorem beginTrap_rflags (t : Trap) (rest : List Trap) : (beginTrap t rest s).rflags = s.rflags := rfl
@[simp] theorem beginTrap_rip (t : Trap) (rest : List Trap) : (beginTrap t rest s).rip = s.rip := rfl
@[simp] theorem beginTrap_code (t : Trap) (rest : List Trap) : (beginTrap t rest s).code = s.code := rfl
@[simp] theorem beginTrap_dev (t : Trap) (rest : List Trap) : (beginTrap t rest s).dev = s.dev := rfl
@[simp] theorem beginTrap_halted (t : Trap) (rest : List Trap) : (beginTrap t rest s).halted = s.halted := rfl
@[simp] theorem beginTrap_trap (t : Trap) (rest : List Trap) : (beginTrap t rest s).trap = t := rfl
@[simp] theorem beginTrap_traps (t : Trap) (rest : List Trap) : (beginTrap t rest s).traps = rest := rfl

@[simp] theorem takeFailure_gpr (e : Failure) : (takeFailure e s).gpr = s.gpr := rfl
@[simp] theorem takeFailure_rflags (e : Failure) : (takeFailure e s).rflags = s.rflags := rfl
@[simp] theorem takeFailure_rip (e : Failure) : (takeFailure e s).rip = s.rip := rfl
@[simp] theorem takeFailure_code (e : Failure) : (takeFailure e s).code = s.code := rfl
@[simp] theorem takeFailure_dev (e : Failure) : (takeFailure e s).dev = s.dev := rfl
@[simp] theorem takeFailure_halted (e : Failure) : (takeFailure e s).halted = some e := rfl
@[simp] theorem takeFailure_trap (e : Failure) : (takeFailure e s).trap = s.trap := rfl
@[simp] theorem takeFailure_traps (e : Failure) : (takeFailure e s).traps = s.traps := rfl

@[simp] theorem advance_gpr (n : Nat) : (advance n s).gpr = s.gpr := rfl
@[simp] theorem advance_rflags (n : Nat) : (advance n s).rflags = s.rflags := rfl
@[simp] theorem advance_rip (n : Nat) : (advance n s).rip = s.rip + BitVec.ofNat 64 n := rfl
@[simp] theorem advance_code (n : Nat) : (advance n s).code = s.code := rfl
@[simp] theorem advance_dev (n : Nat) : (advance n s).dev = s.dev := rfl
@[simp] theorem advance_halted (n : Nat) : (advance n s).halted = s.halted := rfl
@[simp] theorem advance_trap (n : Nat) : (advance n s).trap = s.trap := rfl
@[simp] theorem advance_traps (n : Nat) : (advance n s).traps = s.traps := rfl

@[simp] theorem setGpr_gpr (r : Reg) (v : Word) : (setGpr r v s).gpr = s.gpr.set r.index.val v r.index.isLt := rfl
@[simp] theorem setGpr_rflags (r : Reg) (v : Word) : (setGpr r v s).rflags = s.rflags := rfl
@[simp] theorem setGpr_rip (r : Reg) (v : Word) : (setGpr r v s).rip = s.rip := rfl
@[simp] theorem setGpr_code (r : Reg) (v : Word) : (setGpr r v s).code = s.code := rfl
@[simp] theorem setGpr_dev (r : Reg) (v : Word) : (setGpr r v s).dev = s.dev := rfl
@[simp] theorem setGpr_halted (r : Reg) (v : Word) : (setGpr r v s).halted = s.halted := rfl
@[simp] theorem setGpr_trap (r : Reg) (v : Word) : (setGpr r v s).trap = s.trap := rfl
@[simp] theorem setGpr_traps (r : Reg) (v : Word) : (setGpr r v s).traps = s.traps := rfl

@[simp] theorem writeReg_gpr (r : Reg) (n : Size) (v : Word) : (writeReg r n v s).gpr = s.gpr.set r.index.val (mergeView n (getGpr r s) v) r.index.isLt := rfl
@[simp] theorem writeReg_rflags (r : Reg) (n : Size) (v : Word) : (writeReg r n v s).rflags = s.rflags := rfl
@[simp] theorem writeReg_rip (r : Reg) (n : Size) (v : Word) : (writeReg r n v s).rip = s.rip := rfl
@[simp] theorem writeReg_code (r : Reg) (n : Size) (v : Word) : (writeReg r n v s).code = s.code := rfl
@[simp] theorem writeReg_dev (r : Reg) (n : Size) (v : Word) : (writeReg r n v s).dev = s.dev := rfl
@[simp] theorem writeReg_halted (r : Reg) (n : Size) (v : Word) : (writeReg r n v s).halted = s.halted := rfl
@[simp] theorem writeReg_trap (r : Reg) (n : Size) (v : Word) : (writeReg r n v s).trap = s.trap := rfl
@[simp] theorem writeReg_traps (r : Reg) (n : Size) (v : Word) : (writeReg r n v s).traps = s.traps := rfl

@[simp] theorem deviceLoad_gpr (n : Size) : (deviceLoad n s).gpr = s.gpr := rfl
@[simp] theorem deviceLoad_rflags (n : Size) : (deviceLoad n s).rflags = s.rflags := rfl
@[simp] theorem deviceLoad_rip (n : Size) : (deviceLoad n s).rip = s.rip := rfl
@[simp] theorem deviceLoad_code (n : Size) : (deviceLoad n s).code = s.code := rfl
@[simp] theorem deviceLoad_halted (n : Size) : (deviceLoad n s).halted = s.halted := rfl
@[simp] theorem deviceLoad_trap (n : Size) : (deviceLoad n s).trap = s.trap := rfl
@[simp] theorem deviceLoad_traps (n : Size) : (deviceLoad n s).traps = s.traps := rfl

@[simp] theorem deviceStore_gpr (n : Size) (v : Word) : (deviceStore n v s).gpr = s.gpr := rfl
@[simp] theorem deviceStore_rflags (n : Size) (v : Word) : (deviceStore n v s).rflags = s.rflags := rfl
@[simp] theorem deviceStore_rip (n : Size) (v : Word) : (deviceStore n v s).rip = s.rip := rfl
@[simp] theorem deviceStore_code (n : Size) (v : Word) : (deviceStore n v s).code = s.code := rfl
@[simp] theorem deviceStore_halted (n : Size) (v : Word) : (deviceStore n v s).halted = s.halted := rfl
@[simp] theorem deviceStore_trap (n : Size) (v : Word) : (deviceStore n v s).trap = s.trap := rfl
@[simp] theorem deviceStore_traps (n : Size) (v : Word) : (deviceStore n v s).traps = s.traps := rfl

@[simp] theorem deviceLoad_dev_kind (n : Size) : (deviceLoad n s).dev.kind = s.dev.kind := rfl
@[simp] theorem deviceLoad_dev_misaligned (n : Size) : (deviceLoad n s).dev.misaligned = s.dev.misaligned := rfl
@[simp] theorem deviceLoad_dev_cells (n : Size) : (deviceLoad n s).dev.cells = s.dev.cells := rfl
@[simp] theorem deviceLoad_dev_trace (n : Size) :
    (deviceLoad n s).dev.trace = ⟨.read, s.trap.fa, n, deviceAnswer n s⟩ :: s.dev.trace := rfl

@[simp] theorem deviceStore_dev_kind (n : Size) (v : Word) : (deviceStore n v s).dev.kind = s.dev.kind := rfl
@[simp] theorem deviceStore_dev_misaligned (n : Size) (v : Word) : (deviceStore n v s).dev.misaligned = s.dev.misaligned := rfl
@[simp] theorem deviceStore_dev_cells (n : Size) (v : Word) : (deviceStore n v s).dev.cells = writeBytes (sizeBytes n) s.trap.fa v s.dev.cells := rfl
@[simp] theorem deviceStore_dev_trace (n : Size) (v : Word) :
    (deviceStore n v s).dev.trace = ⟨.write, s.trap.fa, n, lowBytes n v⟩ :: s.dev.trace := rfl

@[simp] theorem getGpr_setRflags (v : Word) (q : Reg) : getGpr q (setRflags v s) = getGpr q s := rfl
@[simp] theorem getGpr_setRip (v : Word) (q : Reg) : getGpr q (setRip v s) = getGpr q s := rfl
@[simp] theorem getGpr_setDev (d : Device) (q : Reg) : getGpr q (setDev d s) = getGpr q s := rfl
@[simp] theorem getGpr_setCode (m : Memory) (q : Reg) : getGpr q (setCode m s) = getGpr q s := rfl
@[simp] theorem getGpr_beginTrap (t : Trap) (rest : List Trap) (q : Reg) : getGpr q (beginTrap t rest s) = getGpr q s := rfl
@[simp] theorem getGpr_takeFailure (e : Failure) (q : Reg) : getGpr q (takeFailure e s) = getGpr q s := rfl
@[simp] theorem getGpr_advance (n : Nat) (q : Reg) : getGpr q (advance n s) = getGpr q s := rfl
@[simp] theorem getGpr_deviceLoad (n : Size) (q : Reg) : getGpr q (deviceLoad n s) = getGpr q s := rfl
@[simp] theorem getGpr_deviceStore (n : Size) (v : Word) (q : Reg) : getGpr q (deviceStore n v s) = getGpr q s := rfl

/-- The index of a register determines it (10_state.md R19). -/
theorem Reg.index_injective {q r : Reg} (h : q.index = r.index) : q = r := by
  cases q <;> cases r <;> first | rfl | exact absurd h (by decide)

theorem getGpr_setGpr (q r : Reg) (v : Word) : getGpr q (setGpr r v s) = if q = r then v else getGpr q s := by
  unfold getGpr setGpr
  rw [Vector.getElem_set]
  by_cases h : q = r
  · simp [h]
  · have : r.index.val ≠ q.index.val := fun e => h (Reg.index_injective (Fin.ext e.symm))
    simp [h, this]

@[simp] theorem getGpr_setGpr_self (r : Reg) (v : Word) : getGpr r (setGpr r v s) = v := by
  simp [getGpr_setGpr]

theorem getGpr_writeReg (q r : Reg) (n : Size) (v : Word) :
    getGpr q (writeReg r n v s) = if q = r then mergeView n (getGpr r s) v else getGpr q s :=
  getGpr_setGpr s q r _

end Sys2Proof.Machine
end

