-- ==== Sys2Proof/Laws/Ops.lean ====
section
/-! SUPPORT. What each shared operation can do, said once. -/

namespace Sys2Proof.Machine

variable {n d : Size} {v imm : Word} {len : Nat} {r : Reg} {s t : State}

/-- A store answers a next state exactly when the device serves the access, and then this one. -/
theorem emulateWrite_next_iff :
    emulateWrite n v len s = .next t ↔ accessServed n s = true ∧ t = advance len (deviceStore n v s) := by
  by_cases h : accessServed n s = true
  · simp only [emulateWrite, h, if_true, Host.Outcome.next.injEq, true_and]
    exact eq_comm
  · simp [emulateWrite, h]

/-- A load answers a next state exactly when the device serves the access, and then this one. -/
theorem emulateRead_next_iff :
    emulateRead n d r len s = .next t ↔
      accessServed n s = true ∧ t = advance len (writeReg r d (deviceAnswer n s) (deviceLoad n s)) := by
  by_cases h : accessServed n s = true
  · simp only [emulateRead, h, if_true, Host.Outcome.next.injEq, true_and]
    exact eq_comm
  · simp [emulateRead, h]

/-- A test answers a next state exactly when the device serves the access, and then this one. -/
theorem emulateTest_next_iff :
    emulateTest imm len s = .next t ↔
      accessServed .b1 s = true ∧ t = advance len (setRflags
        (mergeFlags s.rflags (test8flags ((deviceAnswer .b1 s).setWidth 8) (imm.setWidth 8))) (deviceLoad .b1 s)) := by
  by_cases h : accessServed .b1 s = true
  · simp only [emulateTest, h, if_true, Host.Outcome.next.injEq, true_and]
    exact eq_comm
  · simp [emulateTest, h]

theorem emulateWrite_served (h : accessServed n s = true) :
    emulateWrite n v len s = .next (advance len (deviceStore n v s)) :=
  if_pos h

theorem emulateRead_served (h : accessServed n s = true) :
    emulateRead n d r len s = .next (advance len (writeReg r d (deviceAnswer n s) (deviceLoad n s))) :=
  if_pos h

theorem emulateTest_served (h : accessServed .b1 s = true) :
    emulateTest imm len s = .next (advance len (setRflags
      (mergeFlags s.rflags (test8flags ((deviceAnswer .b1 s).setWidth 8) (imm.setWidth 8))) (deviceLoad .b1 s))) :=
  if_pos h

/-- A device that serves misaligned accesses serves every access. -/
theorem accessServed_of_served (h : s.dev.misaligned = .served) : accessServed n s = true := by
  simp [accessServed, Device.serves, h]

end Sys2Proof.Machine
end

