-- ==== Sys2Proof/Laws/PerInstr.lean ====
section
/-! SUPPORT. The families of statements made per instruction: `EncodeLength`, the encoder writes as many bytes as the
consumed length of 30_encoding.md R79 says. -/

namespace Sys2Proof.Laws

/-- A well-formed memory operand's SIB and displacement have the sizes of 30_encoding.md R67 and R69. -/
theorem memBytes_length {m : MemOperand} (h : memOk m = true) :
    (sibBytes m.sib).length = sibSize m.mod m.rm ∧
      (dispBytes m.disp).length = dispSize m.mod m.rm (m.sib.map Sib.base) := by
  obtain ⟨mod, rm, sib, disp⟩ := m
  simp only [memOk, Bool.and_eq_true, bne_iff_ne, ne_eq, beq_iff_eq] at h
  obtain ⟨⟨hmod, hsib⟩, hdisp⟩ := h
  refine ⟨?_, ?_⟩
  · cases sib with
    | none =>
      have : rm ≠ 0b100#3 := by simpa using hsib
      simp [sibBytes, sibSize, this]
    | some b =>
      have : rm = 0b100#3 := by simpa using hsib
      simp [sibBytes, sibSize, this, hmod]
  · rw [← hdisp]
    cases disp <;> rfl

/-- The length of an assembled form. -/
theorem assemble_length {m : MemOperand} (h : memOk m = true) (h66 : Bool) (rex : Option Rex) (opcode : List Byte)
    (field : BitVec 3) (imm : List Byte) :
    (assemble h66 rex opcode field m imm).length = instLength h66 rex opcode.length m imm.length := by
  obtain ⟨hs, hd⟩ := memBytes_length h
  simp only [assemble, List.length_append, List.length_cons, hs, hd, instLength]
  cases h66 <;> cases rex <;> simp [opsizeBytes, rexBytes] <;> omega

/-- The encoder writes `Instr.length` bytes (30_encoding.md R79). -/
def EncodeLength.Statement (i : Instr) : Prop :=
  i.wf = true → (encode i).length = i.length

theorem EncodeLength.movM8R8 (rex : Option Rex) (reg : Reg) (m : MemOperand) :
    EncodeLength.Statement (.movM8R8 rex reg m) := fun h =>
  assemble_length (by simp_all [Instr.wf]) _ _ _ _ _

theorem EncodeLength.movM16R16 (rex : Option Rex) (reg : Reg) (m : MemOperand) :
    EncodeLength.Statement (.movM16R16 rex reg m) := fun h =>
  assemble_length (by simp_all [Instr.wf]) _ _ _ _ _

theorem EncodeLength.movM32R32 (rex : Option Rex) (reg : Reg) (m : MemOperand) :
    EncodeLength.Statement (.movM32R32 rex reg m) := fun h =>
  assemble_length (by simp_all [Instr.wf]) _ _ _ _ _

theorem EncodeLength.movM64R64 (rex : Option Rex) (reg : Reg) (m : MemOperand) :
    EncodeLength.Statement (.movM64R64 rex reg m) := fun h =>
  assemble_length (by simp_all [Instr.wf]) _ _ _ _ _

theorem EncodeLength.movR8M8 (rex : Option Rex) (reg : Reg) (m : MemOperand) :
    EncodeLength.Statement (.movR8M8 rex reg m) := fun h =>
  assemble_length (by simp_all [Instr.wf]) _ _ _ _ _

theorem EncodeLength.movR16M16 (rex : Option Rex) (reg : Reg) (m : MemOperand) :
    EncodeLength.Statement (.movR16M16 rex reg m) := fun h =>
  assemble_length (by simp_all [Instr.wf]) _ _ _ _ _

theorem EncodeLength.movR32M32 (rex : Option Rex) (reg : Reg) (m : MemOperand) :
    EncodeLength.Statement (.movR32M32 rex reg m) := fun h =>
  assemble_length (by simp_all [Instr.wf]) _ _ _ _ _

theorem EncodeLength.movR64M64 (rex : Option Rex) (reg : Reg) (m : MemOperand) :
    EncodeLength.Statement (.movR64M64 rex reg m) := fun h =>
  assemble_length (by simp_all [Instr.wf]) _ _ _ _ _

theorem EncodeLength.movM8I8 (rex : Option Rex) (m : MemOperand) (imm : BitVec 8) :
    EncodeLength.Statement (.movM8I8 rex m imm) := fun h =>
  assemble_length (by simp_all [Instr.wf]) _ _ _ _ _

theorem EncodeLength.movM16I16 (rex : Option Rex) (m : MemOperand) (imm : BitVec 16) :
    EncodeLength.Statement (.movM16I16 rex m imm) := fun h =>
  assemble_length (by simp_all [Instr.wf]) _ _ _ _ _

theorem EncodeLength.movM32I32 (rex : Option Rex) (m : MemOperand) (imm : BitVec 32) :
    EncodeLength.Statement (.movM32I32 rex m imm) := fun h =>
  assemble_length (by simp_all [Instr.wf]) _ _ _ _ _

theorem EncodeLength.movM64I32 (rex : Option Rex) (m : MemOperand) (imm : BitVec 32) :
    EncodeLength.Statement (.movM64I32 rex m imm) := fun h =>
  assemble_length (by simp_all [Instr.wf]) _ _ _ _ _

theorem EncodeLength.movzxR16M8 (rex : Option Rex) (reg : Reg) (m : MemOperand) :
    EncodeLength.Statement (.movzxR16M8 rex reg m) := fun h =>
  assemble_length (by simp_all [Instr.wf]) _ _ _ _ _

theorem EncodeLength.movzxR32M8 (rex : Option Rex) (reg : Reg) (m : MemOperand) :
    EncodeLength.Statement (.movzxR32M8 rex reg m) := fun h =>
  assemble_length (by simp_all [Instr.wf]) _ _ _ _ _

theorem EncodeLength.movzxR64M8 (rex : Option Rex) (reg : Reg) (m : MemOperand) :
    EncodeLength.Statement (.movzxR64M8 rex reg m) := fun h =>
  assemble_length (by simp_all [Instr.wf]) _ _ _ _ _

theorem EncodeLength.movzxR32M16 (rex : Option Rex) (reg : Reg) (m : MemOperand) :
    EncodeLength.Statement (.movzxR32M16 rex reg m) := fun h =>
  assemble_length (by simp_all [Instr.wf]) _ _ _ _ _

theorem EncodeLength.movzxR64M16 (rex : Option Rex) (reg : Reg) (m : MemOperand) :
    EncodeLength.Statement (.movzxR64M16 rex reg m) := fun h =>
  assemble_length (by simp_all [Instr.wf]) _ _ _ _ _

theorem EncodeLength.testM8I8 (rex : Option Rex) (m : MemOperand) (imm : BitVec 8) :
    EncodeLength.Statement (.testM8I8 rex m imm) := fun h =>
  assemble_length (by simp_all [Instr.wf]) _ _ _ _ _

end Sys2Proof.Laws
end

