-- ==== Sys2Proof/Machine/Assembly.lean ====
section
/-! DEFINITION. The assembler text of an instruction in AT&T order (30_encoding.md R80), with the register view names of
10_state.md R20. Nothing of the machine depends on it. -/

namespace Sys2Proof.Machine

/-- The name of the 64-bit view of a register (10_state.md R19). -/
def regName64 : Reg → String
  | .rax => "rax"
  | .rcx => "rcx"
  | .rdx => "rdx"
  | .rbx => "rbx"
  | .rsp => "rsp"
  | .rbp => "rbp"
  | .rsi => "rsi"
  | .rdi => "rdi"
  | .r8 => "r8"
  | .r9 => "r9"
  | .r10 => "r10"
  | .r11 => "r11"
  | .r12 => "r12"
  | .r13 => "r13"
  | .r14 => "r14"
  | .r15 => "r15"

/-- The name of the 32-bit view (10_state.md R20). -/
def regName32 : Reg → String
  | .rax => "eax"
  | .rcx => "ecx"
  | .rdx => "edx"
  | .rbx => "ebx"
  | .rsp => "esp"
  | .rbp => "ebp"
  | .rsi => "esi"
  | .rdi => "edi"
  | r => regName64 r ++ "d"

/-- The name of the 16-bit view (10_state.md R20). -/
def regName16 : Reg → String
  | .rax => "ax"
  | .rcx => "cx"
  | .rdx => "dx"
  | .rbx => "bx"
  | .rsp => "sp"
  | .rbp => "bp"
  | .rsi => "si"
  | .rdi => "di"
  | r => regName64 r ++ "w"

/-- The name of the 8-bit view, bits 7:0 (10_state.md R20, 30_encoding.md R77). -/
def regName8 : Reg → String
  | .rax => "al"
  | .rcx => "cl"
  | .rdx => "dl"
  | .rbx => "bl"
  | .rsp => "spl"
  | .rbp => "bpl"
  | .rsi => "sil"
  | .rdi => "dil"
  | r => regName64 r ++ "b"

/-- The view of a register that an operand of a size names (10_state.md R20). -/
def regName (n : Size) (r : Reg) : String :=
  match n with
  | .b1 => "%" ++ regName8 r
  | .b2 => "%" ++ regName16 r
  | .b4 => "%" ++ regName32 r
  | .b8 => "%" ++ regName64 r

/-- The legacy high byte that an 8-bit encoding names without a REX prefix (10_state.md R20); the FTDU never produces it. -/
def highByteName (field : BitVec 3) : Option String :=
  match legacyHighByte field with
  | some .rax => some "%ah"
  | some .rcx => some "%ch"
  | some .rdx => some "%dh"
  | some .rbx => some "%bh"
  | _ => none

/-- The value of a legacy high byte: bits 15:8 of its register (10_state.md R20). -/
def highByteValue (field : BitVec 3) (s : State) : Option Byte :=
  (legacyHighByte field).map fun r => (getGpr r s).extractLsb' 8 8

/-- A displacement as a signed number (30_encoding.md R70). -/
def dispValue : Disp → Int
  | .none => 0
  | .d8 v => v.toInt
  | .d32 v => v.toInt

/-- A displacement's text; numbers are decimal (log 28). -/
def dispText : Disp → String
  | .none => ""
  | .d8 v => toString v.toInt
  | .d32 v => toString v.toInt

/-- The index register and scale of a SIB byte; index 0b100 with REX.X = 0 means none. -/
def indexText (rex : Option Rex) (s : Sib) : String :=
  if s.index = 0b100#3 ∧ rexX rex = false then ""
  else "," ++ regName .b8 (Reg.ofField (rexX rex) s.index) ++ "," ++ toString (2 ^ s.scale.toNat)

/-- A memory operand as `disp(base,index,scale)` (30_encoding.md R69, R80). -/
def memText (rex : Option Rex) (m : MemOperand) : String :=
  match m.sib with
  | some s =>
    if m.mod = 0b00#2 ∧ s.base = 0b101#3 then
      if indexText rex s = "" then dispText m.disp
      else dispText m.disp ++ "(" ++ indexText rex s ++ ")"
    else dispText m.disp ++ "(" ++ regName .b8 (Reg.ofField (rexB rex) s.base) ++ indexText rex s ++ ")"
  | none =>
    if m.mod = 0b00#2 ∧ m.rm = 0b101#3 then dispText m.disp ++ "(%rip)"
    else dispText m.disp ++ "(" ++ regName .b8 (Reg.ofField (rexB rex) m.rm) ++ ")"

/-- The AT&T text of a form whose register is the source. -/
def storeText (name : String) (n : Size) (rex : Option Rex) (reg : Reg) (m : MemOperand) : String :=
  name ++ " " ++ regName n reg ++ "," ++ memText rex m

/-- The AT&T text of a form whose register is the destination. -/
def loadText (name : String) (n : Size) (rex : Option Rex) (reg : Reg) (m : MemOperand) : String :=
  name ++ " " ++ memText rex m ++ "," ++ regName n reg

/-- The AT&T text of a form with an immediate, spelled with `$` (30_encoding.md R80, 90_conflicts.md C3). -/
def immText (name : String) (imm : Nat) (rex : Option Rex) (m : MemOperand) : String :=
  name ++ " $" ++ toString imm ++ "," ++ memText rex m

/-- The AT&T text of an instruction, source operand first, with the size suffixes of 30_encoding.md R80. -/
def attText : Instr → String
  | .movM8R8 rex reg m => storeText "movb" .b1 rex reg m
  | .movM16R16 rex reg m => storeText "movw" .b2 rex reg m
  | .movM32R32 rex reg m => storeText "movl" .b4 rex reg m
  | .movM64R64 rex reg m => storeText "movq" .b8 rex reg m
  | .movR8M8 rex reg m => loadText "movb" .b1 rex reg m
  | .movR16M16 rex reg m => loadText "movw" .b2 rex reg m
  | .movR32M32 rex reg m => loadText "movl" .b4 rex reg m
  | .movR64M64 rex reg m => loadText "movq" .b8 rex reg m
  | .movM8I8 rex m imm => immText "movb" imm.toNat rex m
  | .movM16I16 rex m imm => immText "movw" imm.toNat rex m
  | .movM32I32 rex m imm => immText "movl" imm.toNat rex m
  | .movM64I32 rex m imm => immText "movq" imm.toNat rex m
  | .movzxR16M8 rex reg m => loadText "movzbw" .b2 rex reg m
  | .movzxR32M8 rex reg m => loadText "movzbl" .b4 rex reg m
  | .movzxR64M8 rex reg m => loadText "movzbq" .b8 rex reg m
  | .movzxR32M16 rex reg m => loadText "movzwl" .b4 rex reg m
  | .movzxR64M16 rex reg m => loadText "movzwq" .b8 rex reg m
  | .testM8I8 rex m imm => immText "testb" imm.toNat rex m

end Sys2Proof.Machine
end

