-- ==== Sys2Proof/Tests/Slice0.lean ====
section
/-! SUPPORT. The model's own tests: words written out from the spec's encodings, the vectors of 95_test_vectors.md, ill-formed
terms, and for each obligation with hypotheses a witness that meets them. -/

open Sys2Proof Sys2Proof.Machine

namespace Sys2Proof.Tests

/-- A plain memory operand: mod 00, rm 000, `(%rax)`. -/
def atRax : MemOperand := ⟨0, 0, none, .none⟩

/-- A REX prefix with the given W and R. -/
def rexWR (w r : Bool) : Option Rex := some ⟨w, r, false, false⟩

/-- A request whose buffer starts with the given bytes and whose `len` is their number. -/
def req (l : List Byte) : Request := ⟨true, BitVec.ofNat _ l.length, Vector.ofFn fun k => l.getD k.val 0⟩

/-- Bytes put into a memory from an address up. -/
def place (a : Nat) : List Byte → Memory → Memory
  | [], m => m
  | b :: l, m => place (a + 1) l (writeByte m a b)

/-- A state with a RAM-like device, code at 0x1000 and one full request for the fault address. -/
def machine (bytes : List Byte) (fa : Addr) (cells : Memory) : State :=
  { State.reset with
    rip := 0x1000
    code := place 0x1000 bytes []
    dev := { State.reset.dev with kind := .ram, cells := cells }
    traps := [⟨true, 15, fa, 0⟩] }

/-- The step answers a next state that passes a check. -/
def goesTo (s : State) (p : State → Bool) : Bool :=
  match step s with
  | .next t => p t
  | _ => false

/-- The meaning answers a next state. -/
def completes (i : Instr) (s : State) : Bool :=
  match exec i s with
  | .next _ => true
  | _ => false

/-! ## Well-formedness: a term that each check refuses -/

theorem test_wf_accepts : (Instr.movM32R32 none .rcx atRax).wf = true := by decide
theorem test_wf_mod11 : (Instr.movM32R32 none .rcx ⟨3, 0, none, .none⟩).wf = false := by decide
theorem test_wf_sib_missing : (Instr.movM32R32 none .rcx ⟨0, 4, none, .none⟩).wf = false := by decide
theorem test_wf_sib_extra : (Instr.movM32R32 none .rcx ⟨0, 0, some ⟨0, 4, 4⟩, .none⟩).wf = false := by decide
theorem test_wf_disp_size : (Instr.movM32R32 none .rcx ⟨1, 0, none, .none⟩).wf = false := by decide
theorem test_wf_w_must_be_zero : (Instr.movM32R32 (rexWR true false) .rcx atRax).wf = false := by decide
theorem test_wf_w_must_be_one : (Instr.movM64R64 none .rcx atRax).wf = false := by decide
theorem test_wf_w_ignored : (Instr.movM8R8 (rexWR true false) .rcx atRax).wf = true := by decide
theorem test_wf_rex_r : (Instr.movM32R32 none .r8 atRax).wf = false := by decide
theorem test_wf_high_byte : (Instr.movM8R8 none .rsp atRax).wf = false := by decide
theorem test_wf_low_byte_with_rex : (Instr.movM8R8 (rexWR false false) .rsp atRax).wf = true := by decide

/-! ## Decoding: each form's bytes written out from 30_encoding.md R62 and 95_test_vectors.md -/

/-- 95_test_vectors.md T10 `40 88 20`. -/
theorem test_decode_movM8R8 :
    decodeInstr [0x40#8, 0x88#8, 0x20#8] =
      .ok (.movM8R8 (rexWR false false) .rsp atRax, []) := by decide

/-- 95_test_vectors.md T16 `66 89 41 7F`. -/
theorem test_decode_movM16R16 :
    decodeInstr [0x66#8, 0x89#8, 0x41#8, 0x7F#8] =
      .ok (.movM16R16 none .rax ⟨1, 1, none, .d8 0x7F⟩, []) := by decide

/-- 95_test_vectors.md S6 `89 08`. -/
theorem test_decode_movM32R32 :
    decodeInstr [0x89#8, 0x08#8] =
      .ok (.movM32R32 none .rcx atRax, []) := by decide

/-- 95_test_vectors.md T19 `49 89 04 24`, REX.B with a SIB. -/
theorem test_decode_movM64R64 :
    decodeInstr [0x49#8, 0x89#8, 0x04#8, 0x24#8] =
      .ok (.movM64R64 (some ⟨true, false, false, true⟩) .rax ⟨0, 4, some ⟨0, 4, 4⟩, .none⟩, []) := by decide

/-- 95_test_vectors.md T33 `44 8A 00`. -/
theorem test_decode_movR8M8 :
    decodeInstr [0x44#8, 0x8A#8, 0x00#8] =
      .ok (.movR8M8 (rexWR false true) .r8 atRax, []) := by decide

/-- 95_test_vectors.md T37 `66 8B 08`. -/
theorem test_decode_movR16M16 :
    decodeInstr [0x66#8, 0x8B#8, 0x08#8] =
      .ok (.movR16M16 none .rcx atRax, []) := by decide

/-- 95_test_vectors.md T38 `8B 48 10`. -/
theorem test_decode_movR32M32 :
    decodeInstr [0x8B#8, 0x48#8, 0x10#8] =
      .ok (.movR32M32 none .rcx ⟨1, 0, none, .d8 0x10⟩, []) := by decide

/-- 95_test_vectors.md T39 `48 8B 0C 25 00 10 00 00`. -/
theorem test_decode_movR64M64 :
    decodeInstr [0x48#8, 0x8B#8, 0x0C#8, 0x25#8, 0x00#8, 0x10#8, 0x00#8, 0x00#8] =
      .ok (.movR64M64 (rexWR true false) .rcx ⟨0, 4, some ⟨0, 4, 5⟩, .d32 0x1000⟩, []) := by decide

/-- 95_test_vectors.md T47 `C6 40 10 7F`. -/
theorem test_decode_movM8I8 :
    decodeInstr [0xC6#8, 0x40#8, 0x10#8, 0x7F#8] =
      .ok (.movM8I8 none ⟨1, 0, none, .d8 0x10⟩ 0x7F, []) := by decide

/-- 95_test_vectors.md T50 `66 C7 00 34 12`. -/
theorem test_decode_movM16I16 :
    decodeInstr [0x66#8, 0xC7#8, 0x00#8, 0x34#8, 0x12#8] =
      .ok (.movM16I16 none atRax 0x1234, []) := by decide

/-- 95_test_vectors.md T56 `C7 84 24 00 01 00 00 EF BE AD DE`. -/
theorem test_decode_movM32I32 :
    decodeInstr [0xC7#8, 0x84#8, 0x24#8, 0x00#8, 0x01#8, 0x00#8, 0x00#8, 0xEF#8, 0xBE#8, 0xAD#8, 0xDE#8] =
      .ok (.movM32I32 none ⟨2, 4, some ⟨0, 4, 4⟩, .d32 0x100⟩ 0xDEADBEEF, []) := by decide

/-- 95_test_vectors.md T59 `49 C7 44 24 08 00 00 00 80`. -/
theorem test_decode_movM64I32 :
    decodeInstr [0x49#8, 0xC7#8, 0x44#8, 0x24#8, 0x08#8, 0x00#8, 0x00#8, 0x00#8, 0x80#8] =
      .ok (.movM64I32 (some ⟨true, false, false, true⟩) ⟨1, 4, some ⟨0, 4, 4⟩, .d8 8⟩ 0x80000000, []) := by decide

/-- 95_test_vectors.md T60 `66 0F B6 08`. -/
theorem test_decode_movzxR16M8 :
    decodeInstr [0x66#8, 0x0F#8, 0xB6#8, 0x08#8] =
      .ok (.movzxR16M8 none .rcx atRax, []) := by decide

/-- 95_test_vectors.md T62 `0F B6 20`. -/
theorem test_decode_movzxR32M8 :
    decodeInstr [0x0F#8, 0xB6#8, 0x20#8] =
      .ok (.movzxR32M8 none .rsp atRax, []) := by decide

/-- 95_test_vectors.md T64 `4C 0F B6 38`. -/
theorem test_decode_movzxR64M8 :
    decodeInstr [0x4C#8, 0x0F#8, 0xB6#8, 0x38#8] =
      .ok (.movzxR64M8 (rexWR true true) .r15 atRax, []) := by decide

/-- 95_test_vectors.md T66 `0F B7 08`. -/
theorem test_decode_movzxR32M16 :
    decodeInstr [0x0F#8, 0xB7#8, 0x08#8] =
      .ok (.movzxR32M16 none .rcx atRax, []) := by decide

/-- 95_test_vectors.md T70 `4C 0F B7 40 08`. -/
theorem test_decode_movzxR64M16 :
    decodeInstr [0x4C#8, 0x0F#8, 0xB7#8, 0x40#8, 0x08#8] =
      .ok (.movzxR64M16 (rexWR true true) .r8 ⟨1, 0, none, .d8 8⟩, []) := by decide

/-- 95_test_vectors.md T77 `F6 40 FF 80`. -/
theorem test_decode_testM8I8 :
    decodeInstr [0xF6#8, 0x40#8, 0xFF#8, 0x80#8] =
      .ok (.testM8I8 none ⟨1, 0, none, .d8 0xFF⟩ 0x80, []) := by decide

/-- 95_test_vectors.md T21, disp32 with mod 00 rm 101. -/
theorem test_decode_rip_relative :
    decodeInstr [0x89#8, 0x05#8, 0x78#8, 0x56#8, 0x34#8, 0x12#8] =
      .ok (.movM32R32 none .rax ⟨0, 5, none, .d32 0x12345678⟩, []) := by decide

/-- 95_test_vectors.md T25, SIB base 101 with mod 00. -/
theorem test_decode_sib_no_base :
    decodeInstr [0x89#8, 0x0C#8, 0x65#8, 0x00#8, 0x00#8, 0x00#8, 0x00#8] =
      .ok (.movM32R32 none .rcx ⟨0, 4, some ⟨1, 4, 5⟩, .d32 0⟩, []) := by decide

/-- 95_test_vectors.md T57: the record of `movq $-1` is zero-extended. -/
theorem test_record_movq_imm :
    respond (req [0x48#8, 0xC7#8, 0x00#8, 0xFF#8, 0xFF#8, 0xFF#8, 0xFF#8]) =
      .ok ⟨.movWrite, .b8, none, 0x00000000FFFFFFFF, false, 7, none⟩ := by decide

/-- 95_test_vectors.md T42: trailing bytes are ignored. -/
theorem test_record_trailing :
    respond (req [0x8B#8, 0x05#8, 0#8, 0#8, 0#8, 0#8, 1#8, 2#8, 3#8]) =
      .ok ⟨.movRead, .b4, some .rax, 0, false, 6, some .b4⟩ := by decide

/-- 95_test_vectors.md T75. -/
theorem test_record_testb :
    respond (req [0xF6#8, 0x00#8, 0x01#8]) = .ok ⟨.test, .b1, none, 1, true, 3, none⟩ := by decide

/-! ## Failures (95_test_vectors.md) -/

/-- T7. -/
theorem test_fail_high_byte : respond (req [0x88#8, 0x20#8]) = .error .unsupported := by decide
/-- T8. -/
theorem test_fail_high_byte_truncated : respond (req [0x88#8, 0x60#8]) = .error .outOfRange := by decide
/-- T14. -/
theorem test_fail_byte_66 : respond (req [0x66#8, 0x88#8, 0x08#8]) = .error .unsupported := by decide
/-- T26. -/
theorem test_fail_mod11 : respond (req [0x89#8, 0xC0#8]) = .error .unsupported := by decide
/-- T27. -/
theorem test_fail_modrm_missing : respond (req [0x89#8]) = .error .outOfRange := by decide
/-- T28. -/
theorem test_fail_sib_missing : respond (req [0x89#8, 0x04#8]) = .error .outOfRange := by decide
/-- T29. -/
theorem test_fail_disp_missing : respond (req [0x89#8, 0x44#8, 0x24#8]) = .error .outOfRange := by decide
/-- T41. -/
theorem test_fail_size_conflict : respond (req [0x66#8, 0x49#8, 0x8B#8, 0x00#8]) = .error .unsupported := by decide
/-- T44. -/
theorem test_fail_reg_field : respond (req [0xC6#8, 0x08#8, 0xFF#8]) = .error .invalidArgs := by decide
/-- T53. -/
theorem test_fail_reg_field_truncated : respond (req [0xC7#8, 0x08#8]) = .error .invalidArgs := by decide
/-- T54. -/
theorem test_fail_mod_before_reg : respond (req [0xC7#8, 0xC8#8, 0x01#8, 0x00#8, 0x00#8, 0x00#8]) = .error .unsupported := by decide
/-- T55. -/
theorem test_fail_imm_missing : respond (req [0xC7#8, 0x00#8, 0x01#8, 0x00#8, 0x00#8]) = .error .outOfRange := by decide
/-- T68. -/
theorem test_fail_movzx_66 : respond (req [0x66#8, 0x0F#8, 0xB7#8]) = .error .badState := by decide
/-- T72. -/
theorem test_fail_escape_missing : respond (req [0x0F#8]) = .error .outOfRange := by decide
/-- T73. -/
theorem test_fail_syscall : respond (req [0x0F#8, 0x05#8]) = .error .unsupported := by decide
/-- T74. -/
theorem test_fail_conflict_before_badstate : respond (req [0x66#8, 0x48#8, 0x0F#8, 0xB7#8, 0x08#8]) = .error .unsupported := by decide
/-- T78. -/
theorem test_fail_test_66 : respond (req [0x66#8, 0xF6#8]) = .error .badState := by decide
/-- T95. -/
theorem test_fail_second_rex : respond (req [0x48#8, 0x48#8, 0x89#8, 0x08#8]) = .error .unsupported := by decide
/-- T96. -/
theorem test_fail_second_66 : respond (req [0x66#8, 0x66#8, 0x89#8, 0x08#8]) = .error .unsupported := by decide
/-- T97. -/
theorem test_fail_rex_then_66 : respond (req [0x48#8, 0x66#8, 0x89#8, 0x08#8]) = .error .unsupported := by decide
/-- T98. -/
theorem test_fail_opcode_missing : respond (req [0x66#8, 0x48#8]) = .error .outOfRange := by decide
/-- T100. -/
theorem test_fail_only_66 : respond (req [0x66#8]) = .error .outOfRange := by decide
/-- T101. -/
theorem test_fail_lock : respond (req [0xF0#8, 0x89#8, 0x08#8]) = .error .unsupported := by decide
/-- T102. -/
theorem test_fail_nop : respond (req [0x90#8]) = .error .unsupported := by decide
/-- T1. -/
theorem test_fail_absent : respond { req [0x89#8, 0x08#8] with present := false } = .error .invalidInput := by decide
/-- T2. -/
theorem test_fail_empty : respond (req []) = .error .invalidInput := by decide
/-- T5. -/
theorem test_fail_long : respond { req [0x89#8, 0x08#8] with len := 0xFFFFFFFF } = .error .lengthExceeded := by decide

/-! ## TEST8FLAGS (95_test_vectors.md S1 to S5, T84 to T94) -/

theorem test_flags_vectors :
    [test8flags 1 1, test8flags 3 3, test8flags 0 0, test8flags 0xFF 0xFF, test8flags 0x80 0x80, test8flags 0x7F 0xFF] =
      [0x2, 0x6, 0x46, 0x86, 0x82, 0x2] := by decide

/-- T113, the merge alone. -/
theorem test_merge : mergeFlags 0xFFF 0x46 = 0x76E := by decide

/-! ## The reference consumer (95_test_vectors.md T107 to T115) -/

/-- T107. -/
theorem test_load32_zero_extends :
    goesTo (setGpr .rcx 0xFFFFFFFFFFFFFFFF (machine [0x8B#8, 0x08#8] 0x100 (place 0x100 [0x78#8, 0x56#8, 0x34#8, 0x12#8] [])))
      (fun t => getGpr .rcx t == 0x0000000012345678 && getGpr .rax t == 0) = true := by decide

/-- T108. -/
theorem test_load8_merges :
    goesTo (setGpr .rcx 0xFFFFFFFFFFFFFFFF (machine [0x8A#8, 0x08#8] 0x100 (place 0x100 [0x78#8] [])))
      (fun t => getGpr .rcx t == 0xFFFFFFFFFFFFFF78 && getGpr .rax t == 0) = true := by decide

/-- T109. -/
theorem test_load16_merges :
    goesTo (setGpr .rcx 0xFFFFFFFFFFFFFFFF (machine [0x66#8, 0x8B#8, 0x08#8] 0x100 (place 0x100 [0x78#8, 0x56#8] [])))
      (fun t => getGpr .rcx t == 0xFFFFFFFFFFFF5678 && getGpr .rax t == 0) = true := by decide

/-- T110. -/
theorem test_movzbw_keeps_upper :
    goesTo (setGpr .rcx 0xFFFFFFFFFFFFFFFF (machine [0x66#8, 0x0F#8, 0xB6#8, 0x08#8] 0x100 (place 0x100 [0x78#8] [])))
      (fun t => getGpr .rcx t == 0xFFFFFFFFFFFF0078 && getGpr .rax t == 0) = true := by decide

/-- T112: the sign-extended immediate. -/
theorem test_store_imm64_sign_extends :
    goesTo (machine [0x48#8, 0xC7#8, 0x00#8, 0x00#8, 0x00#8, 0x00#8, 0x80#8] 0x200 [])
      (fun t => t.dev.cells == place 0x200 [0#8, 0#8, 0#8, 0x80#8, 0xFF#8, 0xFF#8, 0xFF#8, 0xFF#8] []) = true := by
  decide

/-- T113. -/
theorem test_testb_merges :
    goesTo (setRflags 0xFFF (machine [0xF6#8, 0x00#8, 0x01#8] 0x300 [])) (fun t => t.rflags == 0x76E && t.rip == 0x1003) =
      true := by decide

/-- T114: the store is little-endian and `rip` wraps. -/
theorem test_rip_wraps :
    goesTo
      { setGpr .rcx 0x0102030405060708 (machine [] 0x7000 []) with
        rip := 0xFFFFFFFFFFFFFFFE, code := place 0xFFFFFFFFFFFFFFFE [0x89#8, 0x08#8] [] }
      (fun t => t.rip == 0 && t.dev.cells == place 0x7000 [8#8, 7#8, 6#8, 5#8] []) = true := by decide

/-- T115. -/
theorem test_failure_halts :
    goesTo (machine [0x90#8] 0 []) (fun t => t.halted == some .unsupported && t.rip == 0x1000) = true := by decide

/-- 95_test_vectors.md program 3, step 2: `movzbq` of 0x80. -/
theorem test_movzbq :
    goesTo (setGpr .r8 0xFFFFFFFFFFFFFFFF (machine [0x4C#8, 0x0F#8, 0xB6#8, 0x40#8, 0x0B#8] 0x400B (place 0x400B [0x80#8] [])))
      (fun t => getGpr .r8 t == 0x80 && t.rip == 0x1005) = true := by decide

/-- 95_test_vectors.md program 3, step 3: `movzwl` of 0xFFFF. -/
theorem test_movzwl :
    goesTo (setGpr .rcx 0xFFFFFFFFFFFFFFFF (machine [0x0F#8, 0xB7#8, 0x48#8, 0x0C#8] 0x400C (place 0x400C [0xFF#8, 0xFF#8] [])))
      (fun t => getGpr .rcx t == 0xFFFF) = true := by decide

/-- 95_test_vectors.md program 4, step 2: `movb (%rax),%sil`. -/
theorem test_movb_sil :
    goesTo (setGpr .rsi 0x1111111111111111 (machine [0x40#8, 0x8A#8, 0x30#8] 0x6000 (place 0x6000 [0x5A#8] [])))
      (fun t => getGpr .rsi t == 0x111111111111115A) = true := by decide

/-- An oracle device answers what the request says (45_reference_consumer.md R139). -/
theorem test_oracle_answer :
    goesTo { State.reset with code := place 0 [0x8B#8, 0x08#8] [], traps := [⟨true, 15, 0x100, 0xAABBCCDDEEFF0011⟩] }
      (fun t => getGpr .rcx t == 0xEEFF0011) = true := by decide

/-- 30_encoding.md R80 and 95_test_vectors.md T23. -/
theorem test_att_text :
    attText (.movM32R32 none .rax ⟨1, 4, some ⟨0, 4, 4⟩, .d8 8⟩) = "movl %eax,8(%rsp)" := by decide

/-- The table's word of `89 08`: byte 0 is bits 7 to 0. -/
theorem test_table_word : decodeTableWord 16 0x0889 = some (.movM32R32 none .rcx atRax) := by decide

/-- A placed word runs as the first step after reset. -/
theorem test_placed_word : goesTo (State.reset.withFetchWord 16 0x0889) (fun t => t.rip == 2) = true := by decide

/-! ## Witnesses: hypotheses of the obligations met together -/

theorem witness_DecodeOfEncode : (Instr.movM64I32 (rexWR true false) atRax 0xFFFFFFFF).wf = true := by decide

theorem witness_DecodeAcceptsOnlyEncodings :
    decodeInstr [0x89#8, 0x08#8, 0x90#8] = .ok (.movM32R32 none .rcx atRax, [0x90#8]) := by decide

/-- The shortest and the longest form. -/
theorem witness_ConsumedLength :
    (respond (req [0x89#8, 0x08#8])).map Record.length = .ok 2 ∧
    (respond (req [0x48#8, 0xC7#8, 0x84#8, 0x24#8, 0x00#8, 0x01#8, 0x00#8, 0x00#8, 0xFF#8, 0xFF#8, 0xFF#8, 0xFF#8])).map Record.length = .ok 12 := by decide

theorem witness_Truncated : (Instr.movM32R32 none .rcx atRax).wf = true ∧
    (0 < (Instr.movM32R32 none .rcx atRax).length ∧ 1 < (Instr.movM32R32 none .rcx atRax).length) := by decide

theorem witness_ResponseIgnoresUnreadBytes :
    let q := req [0x89#8, 0x08#8, 0x00#8]
    let q' := req [0x89#8, 0x08#8, 0xFF#8]
    q ≠ q' ∧ q.present = q'.present ∧ q.len = q'.len ∧ (∀ k < 2, bufByte q k = bufByte q' k) ∧
      respond q = .ok ⟨.movWrite, .b4, some .rcx, 0, false, 2, none⟩ ∧
    (let p := req [0x89#8, 0x08#8]
     let p' := { p with buf := (req [0x89#8, 0x08#8, 0xFF#8]).buf }
     p ≠ p' ∧ p.present = p'.present ∧ p.len = p'.len ∧ ∀ k < p.len.toNat, bufByte p k = bufByte p' k) := by decide

theorem witness_BadStateExactly :
    validCall (req [0x66#8, 0x41#8, 0xF6#8]) ∧ (req [0x66#8, 0x41#8, 0xF6#8]).bytes =
      0x66#8 :: (rexBytes (some ⟨false, false, false, true⟩) ++ (opcodeBytes .opF6 ++ [])) ∧
    validCall (req [0x66#8, 0x0F#8, 0xB7#8]) ∧ (req [0x66#8, 0x0F#8, 0xB7#8]).bytes =
      0x66#8 :: (rexBytes none ++ (opcodeBytes .op0FB7 ++ [])) := by
  refine ⟨⟨rfl, by decide, by decide⟩, by decide, ⟨rfl, by decide, by decide⟩, by decide⟩

theorem witness_OtherOpcodes :
    isRexByte 0x90#8 = false ∧ 0x90#8 ∉ [0x88#8, 0x89#8, 0x8A#8, 0x8B#8, 0xC6#8, 0xC7#8, 0xF6#8, 0x0F#8] ∧
    isRexByte 0x66#8 = false ∧ 0x66#8 ∉ [0x88#8, 0x89#8, 0x8A#8, 0x8B#8, 0xC6#8, 0xC7#8, 0xF6#8, 0x0F#8] ∧
    (0x05#8 : Byte) ∉ [0xB6#8, 0xB7#8] := by decide

theorem witness_SecondRex : isRexByte 0x40#8 = true ∧ isRexByte 0x4F#8 = true ∧ (Rex.ofByte 0x48#8).w = true := by
  decide

theorem witness_RecordShape : decodeRequest (req [0xC6#8, 0x00#8, 0x00#8]) = .ok (.movM8I8 none atRax 0) ∧
    decodeRequest (req [0xF6#8, 0x00#8, 0x01#8]) = .ok (.testM8I8 none atRax 1) := by decide

/-- The inner hypotheses of the two size tables. -/
theorem witness_Sizes : (0b100#3 : BitVec 3) ≠ 0b101 ∧ (0b110#3 : BitVec 3) ≠ 0b101 ∧
    (recordOf (.movR8M8 none .rcx atRax)).destSize = some .b1 ∧
    (recordOf (.movzxR64M16 none .rcx atRax)).destSize = some .b8 := by decide

theorem witness_WriteView : Reg.rcx ≠ Reg.rax ∧ (0 < 64 ∧ 7 < 64 ∧ 8 < 64 ∧ 15 < 64 ∧ 16 < 64 ∧ 31 < 64 ∧ 32 < 64 ∧ 63 < 64) := by
  decide

theorem witness_Merge : 0 < 64 ∧ 0 ∈ [0, 2, 4, 6, 7, 11] ∧ 63 < 64 ∧ 63 ∉ [0, 2, 4, 6, 7, 11] := by decide

/-- A RAM-like device with a canonical memory: the hypotheses of the two RAM statements. -/
theorem witness_Ram : (machine [] 0x100 [(0x100, 0x78#8)]).dev.kind = .ram ∧
    Memory.wf (machine [] 0x100 [(0x100, 0x78#8)]).dev.cells = true ∧ sizeBytes .b1 < 8 := by decide

theorem witness_OneDeviceAccess : completes (.movzxR64M16 (rexWR true false) .rcx atRax) (machine [] 0x100 []) = true := by
  decide

/-- A device that refuses the misaligned access. -/
theorem witness_Misaligned :
    let s := { machine [] 0 [] with trap := ⟨true, 15, 0x101, 0⟩, dev := { State.reset.dev with misaligned := .refused } }
    accessServed .b2 s = false ∧ accessServed .b1 s = true := by decide

/-- The reset state meets the hypotheses of every statement of what an instruction does. -/
theorem witness_Completion : Memory.wf State.reset.dev.cells = true ∧ accessServed .b1 State.reset = true ∧
    accessServed .b2 State.reset = true ∧ accessServed .b4 State.reset = true ∧ accessServed .b8 State.reset = true := by
  decide

/-- The same on a device that refuses misaligned accesses, at an aligned address. -/
theorem witness_Completion_aligned :
    let s := { machine [] 0 [] with trap := ⟨true, 15, 0x1008, 0⟩, dev := { State.reset.dev with misaligned := .refused } }
    Memory.wf s.dev.cells = true ∧ accessServed .b1 s = true ∧ accessServed .b2 s = true ∧ accessServed .b4 s = true ∧
      accessServed .b8 s = true := by decide

theorem witness_StepRunsDecodedInstruction :
    let s := machine [0x89#8, 0x08#8] 0x100 []
    s.halted = none ∧ s.traps = [⟨true, 15, 0x100, 0⟩] ∧
      (requestOf s ⟨true, 15, 0x100, 0⟩).present = true ∧ 1 ≤ (requestOf s ⟨true, 15, 0x100, 0⟩).len.toNat ∧
      (requestOf s ⟨true, 15, 0x100, 0⟩).len.toNat ≤ Config.maxInstLen ∧
      (decodeInstr (requestOf s ⟨true, 15, 0x100, 0⟩).bytes).map Prod.fst = .ok (.movM32R32 none .rcx atRax) := by
  decide

theorem witness_StepIsEmulate_halted : (takeFailure .badState State.reset).halted = some .badState := by decide

theorem witness_FailureHalts : pendingResponse (machine [0x90#8] 0x100 []) = some (.error .unsupported) := by decide

theorem witness_NoRequest : State.reset.halted = none ∧ State.reset.traps = [] := by decide

/-- A success and its step, the hypotheses of the first clause; a state without a success and its step, of the second. -/
theorem witness_RipAdvances :
    pendingResponse (machine [0x89#8, 0x08#8] 0x100 []) = some (.ok ⟨.movWrite, .b4, some .rcx, 0, false, 2, none⟩) ∧
    goesTo (machine [0x89#8, 0x08#8] 0x100 []) (fun _ => true) = true ∧
    pendingResponse State.reset = none ∧ goesTo State.reset (fun _ => true) = true := by decide

/-- A step whose record is no TEST; `test_testb_merges` is one whose record is. -/
theorem witness_OnlyTest : goesTo (machine [0x8B#8, 0x08#8] 0x100 []) (fun _ => true) = true ∧
    pendingResponse (machine [0x8B#8, 0x08#8] 0x100 []) = some (.ok ⟨.movRead, .b4, some .rcx, 0, false, 2, some .b4⟩) := by
  decide

theorem witness_OnlyLoads :
    goesTo (machine [0x8B#8, 0x08#8] 0x100 [(0x100, 5#8)])
      (fun t => getGpr .rcx t != getGpr .rcx (machine [0x8B#8, 0x08#8] 0x100 [(0x100, 5#8)])) = true := by decide

theorem witness_OnlyStores :
    Memory.wf (machine [0xC6#8, 0x00#8, 0x05#8] 0x100 []).dev.cells = true ∧
    goesTo (machine [0xC6#8, 0x00#8, 0x05#8] 0x100 []) (fun t => devByte t 0x100 != devByte (machine [0xC6#8, 0x00#8, 0x05#8] 0x100 []) 0x100) =
      true := by decide

theorem witness_ResponseIgnoresSnapshot :
    let s := machine [0x89#8, 0x08#8] 0x100 []
    let s' := setGpr .rcx 7 (setRflags 0x46 s)
    s ≠ s' ∧ s.code = s'.code ∧ s.rip = s'.rip ∧ s.halted = s'.halted ∧ s.traps = s'.traps := by decide

/-- A state of the invariant whose step runs an instruction. -/
theorem witness_StepKeepsInvariant : (machine [0x89#8, 0x08#8] 0x100 []).Inv ∧
    goesTo (machine [0x89#8, 0x08#8] 0x100 []) (fun t => t.rip == 0x1002) = true :=
  ⟨⟨by decide, by decide, by decide, by intro a ha; exact absurd ha List.not_mem_nil⟩, by decide⟩

theorem witness_PlacedWord : Memory.wf State.reset.code = true ∧
    decodeTableWord 24 0x0100F6 = some (.testM8I8 none atRax 1) := by decide

end Sys2Proof.Tests
end

/-! # The response and the step, said once

What a decoded record looks like, how a response is served, and everything a step can do: the layer that the invariants below
rest on. -/

section
namespace Sys2Proof.Machine

/-! ## The shape of a decoded record -/

/-- The records a `DECODE` makes, by the register operand and the length of their instruction (40_decoder.md R96): the four
record builders, with a load at least as wide as its access (10_state.md R28). -/
inductive DecodedRecord (len : Nat) : Option Reg → Record → Prop
  | store (n : Size) (g : Reg) : DecodedRecord len (some g) (storeRecord n g len)
  | load (n d : Size) (g : Reg) (wide : sizeBytes n ≤ sizeBytes d) : DecodedRecord len (some g) (loadRecord n d g len)
  | imm (n : Size) (v : Word) : DecodedRecord len none (immRecord n v len)
  | test (v : Word) : DecodedRecord len none (testRecord v len)

theorem recordOf_decodedRecord (i : Instr) : DecodedRecord i.length (regOperand i) (recordOf i) := by
  cases i with
  | movM8R8 | movM16R16 | movM32R32 | movM64R64 => exact .store _ _
  | movR8M8 | movR16M16 | movR32M32 | movR64M64 => exact .load _ _ _ le_rfl
  | movM8I8 | movM16I16 | movM32I32 | movM64I32 => exact .imm _ _
  | movzxR16M8 | movzxR32M8 | movzxR64M8 | movzxR32M16 | movzxR64M16 => exact .load _ _ _ (by decide)
  | testM8I8 => exact .test _

namespace DecodedRecord

variable {len : Nat} {g : Option Reg} {r : Record}

theorem reg_eq (h : DecodedRecord len g r) : r.reg = g := by
  cases h <;> rfl

/-- A record with a register has no immediate (10_state.md R26). -/
theorem imm_eq_zero (h : DecodedRecord len g r) (hreg : r.reg.isSome = true) : r.imm = 0 := by
  cases h with
  | store | load => rfl
  | imm | test => exact absurd hreg Bool.false_ne_true

theorem flags_iff (h : DecodedRecord len g r) : r.flags = true ↔ r.type = .test := by
  cases h with
  | test => exact ⟨fun _ => rfl, fun _ => rfl⟩
  | store | load | imm => exact ⟨fun hf => absurd hf Bool.false_ne_true, nofun⟩

theorem of_test (h : DecodedRecord len g r) (ht : r.type = .test) : r.accessSize = .b1 ∧ r.reg = none := by
  cases h with
  | test => exact ⟨rfl, rfl⟩
  | store | load | imm => cases ht

theorem destSize_isSome_iff (h : DecodedRecord len g r) : r.destSize.isSome = true ↔ r.type = .movRead := by
  cases h with
  | load => exact ⟨fun _ => rfl, fun _ => rfl⟩
  | store | imm | test => exact ⟨fun hd => absurd hd Bool.false_ne_true, nofun⟩

theorem accessSize_le_destSize (h : DecodedRecord len g r) {d : Size} (hd : r.destSize = some d) :
    sizeBytes r.accessSize ≤ sizeBytes d := by
  cases h with
  | load n d' g wide => cases hd; exact wide
  | store | imm | test => cases hd

end DecodedRecord

/-! ## The response -/

variable {s t : State} {tr : Trap} {rest : List Trap} {q : Request} {i : Instr} {r : Record} {e : Failure}

theorem respond_of_decodeRequest (h : decodeRequest q = .ok i) : respond q = .ok (recordOf i) := by
  rw [respond, h]; rfl

theorem respond_eq_ok_iff : respond q = .ok r ↔ ∃ i, decodeRequest q = .ok i ∧ recordOf i = r := by
  cases h : decodeRequest q <;> simp [respond, h, Except.map]

theorem respond_eq_error_iff : respond q = .error e ↔ decodeRequest q = .error e := by
  cases h : decodeRequest q <;> simp [respond, h, Except.map]

/-- The captured bytes depend on the code and on `rip` alone (45_reference_consumer.md R142). -/
theorem captured_congr (hcode : s.code = t.code) (hrip : s.rip = t.rip) : captured s = captured t := by
  simp only [captured, codeAddr, hcode, hrip]

theorem requestOf_congr (hcode : s.code = t.code) (hrip : s.rip = t.rip) (tr : Trap) :
    requestOf s tr = requestOf t tr := by
  simp only [requestOf, captured_congr hcode hrip]

theorem pendingResponse_cons (hh : s.halted = none) (ht : s.traps = tr :: rest) :
    pendingResponse s = some (respond (requestOf s tr)) := by
  simp only [pendingResponse, hh, ht]

/-! ## The step -/

/-- The arms of `exec` are the three ways to apply a record (45_reference_consumer.md R130). -/
theorem exec_eq_applyRecord (i : Instr) (s : State) : exec i s = applyRecord (recordOf i) s := by
  cases i <;> rfl

theorem serve_of_respond_ok (h : respond (requestOf s tr) = .ok r) : serve s tr = applyRecord r s := by
  obtain ⟨i, hi, rfl⟩ := respond_eq_ok_iff.mp h
  simp only [serve, hi, exec_eq_applyRecord]

theorem serve_of_respond_error (h : respond (requestOf s tr) = .error e) : serve s tr = .next (takeFailure e s) := by
  simp only [serve, respond_eq_error_iff.mp h]

theorem step_of_halted (hh : s.halted = some e) : step s = .fault (.halted e) := by
  simp only [step, hh]

theorem step_of_idle (hh : s.halted = none) (ht : s.traps = []) : step s = .next s := by
  simp only [step, hh, ht]

theorem step_of_request (hh : s.halted = none) (ht : s.traps = tr :: rest) :
    step s = serve (beginTrap tr rest s) tr := by
  simp only [step, hh, ht]

/-- What a MOV_WRITE record sends: its register's low bytes, or its immediate (45_reference_consumer.md R134, R135). -/
def storeValue (r : Record) (s : State) : Word :=
  match r.reg with
  | some g => readReg g r.accessSize s
  | none => immVal r.imm r.accessSize

/-- The three ways in which a record takes a state to the next one (45_reference_consumer.md R134 to R138). -/
inductive Applied (r : Record) (s : State) : State → Prop
  | stored (type : r.type = .movWrite) (served : accessServed r.accessSize s = true) :
      Applied r s (advance r.length (deviceStore r.accessSize (storeValue r s) s))
  | loaded (type : r.type = .movRead) (g : Reg) (reg : r.reg = some g) (d : Size) (dest : r.destSize = some d)
      (served : accessServed r.accessSize s = true) :
      Applied r s (advance r.length (writeReg g d (deviceAnswer r.accessSize s) (deviceLoad r.accessSize s)))
  | tested (type : r.type = .test) (served : accessServed .b1 s = true) :
      Applied r s (advance r.length (setRflags
        (mergeFlags s.rflags (test8flags ((deviceAnswer .b1 s).setWidth 8) (r.imm.setWidth 8))) (deviceLoad .b1 s)))

/-- A record that answers a next state is a store, a load or a test that the device serves. -/
theorem applied_of_applyRecord (h : applyRecord r s = .next t) : Applied r s t := by
  obtain ⟨type, size, reg, imm, flags, len, dest⟩ := r
  cases type with
  | movWrite =>
    cases reg <;>
    · obtain ⟨hserved, rfl⟩ := emulateWrite_next_iff.mp h
      exact .stored rfl hserved
  | movRead =>
    cases reg with
    | none => cases h
    | some g =>
      cases dest with
      | none => cases h
      | some d =>
        obtain ⟨hserved, rfl⟩ := emulateRead_next_iff.mp h
        exact .loaded rfl g rfl d rfl hserved
  | test =>
    obtain ⟨hserved, rfl⟩ := emulateTest_next_iff.mp h
    exact .tested rfl hserved

/-- Everything that a step with a next state can be: no request pending, a failure taken, or a record applied with the
request in service. -/
inductive StepCase (s : State) : State → Prop
  | idle (halted : s.halted = none) (traps : s.traps = []) : StepCase s s
  | failed (tr : Trap) (rest : List Trap) (e : Failure) (traps : s.traps = tr :: rest)
      (response : pendingResponse s = some (.error e)) : StepCase s (takeFailure e (beginTrap tr rest s))
  | applied (tr : Trap) (rest : List Trap) (r : Record) (t : State) (traps : s.traps = tr :: rest)
      (response : pendingResponse s = some (.ok r)) (effect : Applied r (beginTrap tr rest s) t) : StepCase s t

/-- The inversion of the step: the invariants of the machine are case splits on it. -/
theorem stepCase_of_step (h : step s = .next t) : StepCase s t := by
  cases hh : s.halted with
  | some e => rw [step_of_halted hh] at h; cases h
  | none =>
    cases ht : s.traps with
    | nil =>
      rw [step_of_idle hh ht] at h
      cases h
      exact .idle hh ht
    | cons tr rest =>
      have hpending := pendingResponse_cons hh ht
      rw [step_of_request hh ht] at h
      cases hresp : respond (requestOf s tr) with
      | error e =>
        rw [serve_of_respond_error (s := beginTrap tr rest s) hresp] at h
        cases h
        exact .failed tr rest e ht (by rw [hpending, hresp])
      | ok r =>
        rw [serve_of_respond_ok (s := beginTrap tr rest s) hresp] at h
        exact .applied tr rest r t ht (by rw [hpending, hresp]) (applied_of_applyRecord h)

end Sys2Proof.Machine
end

/-! # The state invariant -/

section
namespace Sys2Proof.Machine

/-! ## Values that fit their size -/

theorem lowBytes_eq_setWidth (n : Size) (v : Word) : lowBytes n v = (v.setWidth (8 * sizeBytes n)).setWidth 64 := by
  cases n with
  | b1 | b2 | b4 => rfl
  | b8 => simp [lowBytes, sizeBytes]

/-- A narrow view keeps the bits below its width and clears the others (10_state.md R20). -/
theorem getLsbD_lowBytes (n : Size) (v : Word) (k : Nat) :
    (lowBytes n v).getLsbD k = (decide (k < 8 * sizeBytes n) && v.getLsbD k) := by
  rw [lowBytes_eq_setWidth, BitVec.getLsbD_setWidth, BitVec.getLsbD_setWidth]
  by_cases hk : k < 64
  · simp only [hk, decide_true, Bool.true_and]
  · simp only [BitVec.getLsbD_of_ge v k (Nat.le_of_not_lt hk), Bool.and_false]

theorem lowBytes_lowBytes (n : Size) (v : Word) : lowBytes n (lowBytes n v) = lowBytes n v := by
  refine BitVec.eq_of_getLsbD_eq fun k _ => ?_
  simp only [getLsbD_lowBytes, ← Bool.and_assoc, Bool.and_self]

/-- A number read from `n` bytes has no bit at or above `8n`. -/
theorem getLsbD_readBytes_of_ge (n : Nat) (a : Addr) (m : Memory) {k : Nat} (hk : 8 * n ≤ k) :
    (readBytes n a m).getLsbD k = false := by
  induction n generalizing a k with
  | zero => simp [readBytes]
  | succ n ih =>
    have hhigh : (readBytes n (a + 1) m).getLsbD (k - 8) = false := ih (a + 1) (by omega)
    have hbyte : (readByte m a.toNat).getLsbD k = false := BitVec.getLsbD_of_ge _ _ (by omega)
    simp only [readBytes, BitVec.getLsbD_or, BitVec.getLsbD_shiftLeft, BitVec.getLsbD_setWidth, hhigh, hbyte,
      Bool.and_false, Bool.or_false]

theorem lowBytes_readBytes (n : Size) (a : Addr) (m : Memory) :
    lowBytes n (readBytes (sizeBytes n) a m) = readBytes (sizeBytes n) a m := by
  refine BitVec.eq_of_getLsbD_eq fun k _ => ?_
  rw [getLsbD_lowBytes]
  by_cases hk : k < 8 * sizeBytes n
  · simp [hk]
  · rw [getLsbD_readBytes_of_ge _ _ _ (Nat.le_of_not_lt hk), Bool.and_false]

/-- Whatever the kind of device, its answer fits the access (45_reference_consumer.md R139). -/
theorem lowBytes_deviceAnswer (n : Size) (s : State) : lowBytes n (deviceAnswer n s) = deviceAnswer n s := by
  unfold deviceAnswer
  split
  · exact lowBytes_lowBytes n _
  · exact lowBytes_readBytes n _ _

/-! ## The reserved bit -/

/-- A merge keeps bit 1, which is no status flag (45_reference_consumer.md R138). -/
theorem getLsbD_one_mergeFlags (old f : Word) : (mergeFlags old f).getLsbD 1 = old.getLsbD 1 := by
  have hmask : statusMask.getLsbD 1 = false := by decide
  simp only [mergeFlags, BitVec.getLsbD_or, BitVec.getLsbD_and, BitVec.getLsbD_not, hmask]
  simp

/-! ## Each update keeps the invariant -/

variable {s t : State} {r : Record}

/-- The invariant speaks of the code, the device and `rflags` only. -/
theorem inv_of_same_fields (hi : s.Inv) (hcode : t.code = s.code) (hdev : t.dev = s.dev)
    (hflags : t.rflags = s.rflags) : t.Inv where
  codeWf := hcode ▸ hi.codeWf
  cellsWf := hdev ▸ hi.cellsWf
  reservedOne := hflags ▸ hi.reservedOne
  traceFits := hdev ▸ hi.traceFits

theorem inv_beginTrap (hi : s.Inv) (tr : Trap) (rest : List Trap) : (beginTrap tr rest s).Inv :=
  inv_of_same_fields hi rfl rfl rfl

theorem inv_takeFailure (hi : s.Inv) (e : Failure) : (takeFailure e s).Inv :=
  inv_of_same_fields hi rfl rfl rfl

theorem inv_advance (hi : s.Inv) (len : Nat) : (advance len s).Inv :=
  inv_of_same_fields hi rfl rfl rfl

theorem inv_writeReg (hi : s.Inv) (g : Reg) (d : Size) (v : Word) : (writeReg g d v s).Inv :=
  inv_of_same_fields hi rfl rfl rfl

theorem inv_setRflags (hi : s.Inv) {v : Word} (hv : v.getLsbD 1 = true) : (setRflags v s).Inv :=
  { hi with reservedOne := hv }

theorem inv_deviceLoad (hi : s.Inv) (n : Size) : (deviceLoad n s).Inv where
  codeWf := hi.codeWf
  cellsWf := hi.cellsWf
  reservedOne := hi.reservedOne
  traceFits := List.forall_mem_cons.mpr ⟨lowBytes_deviceAnswer n s, hi.traceFits⟩

theorem inv_deviceStore (hi : s.Inv) (n : Size) (v : Word) : (deviceStore n v s).Inv where
  codeWf := hi.codeWf
  cellsWf := wf_writeBytes _ _ _ hi.cellsWf
  reservedOne := hi.reservedOne
  traceFits := List.forall_mem_cons.mpr ⟨lowBytes_lowBytes n v, hi.traceFits⟩

theorem inv_of_applied (hi : s.Inv) (h : Applied r s t) : t.Inv := by
  cases h with
  | stored => exact inv_advance (inv_deviceStore hi _ _) _
  | loaded => exact inv_advance (inv_writeReg (inv_deviceLoad hi _) _ _ _) _
  | tested =>
    refine inv_advance (inv_setRflags (inv_deviceLoad hi _) ?_) _
    rw [getLsbD_one_mergeFlags, hi.reservedOne]

/-- Settles O48, by cases on what the step can be: each update of the state keeps the invariant. -/
theorem stepKeepsInvariant : Obligations.StepKeepsInvariant := by
  intro s t hi h
  cases stepCase_of_step h with
  | idle => exact hi
  | failed tr rest e => exact inv_takeFailure (inv_beginTrap hi tr rest) e
  | applied tr rest r t _ _ effect => exact inv_of_applied (inv_beginTrap hi tr rest) effect

end Sys2Proof.Machine
end

/-! # The snapshot: its registers and the record -/

section
namespace Sys2Proof.Machine

variable {s t : State} {r : Record} {q : Reg}

/-- Applying a record changes no register but the destination of a MOV_READ (45_reference_consumer.md R136). -/
theorem movRead_of_applied_of_getGpr_ne (h : Applied r s t) (hne : getGpr q t ≠ getGpr q s) :
    r.type = .movRead ∧ r.reg = some q := by
  cases h with
  | stored => simp at hne
  | tested => simp at hne
  | loaded type g reg =>
    by_cases hq : q = g
    · exact ⟨type, hq ▸ reg⟩
    · simp [getGpr_writeReg, hq] at hne

/-- Settles O44, by cases on what the step can be. -/
theorem onlyLoadsChangeRegisters : Obligations.OnlyLoadsChangeRegisters := by
  intro s t q h hne
  cases stepCase_of_step h with
  | idle => exact absurd rfl hne
  | failed => simp at hne
  | applied tr rest r t _ response effect =>
    exact ⟨r, response, movRead_of_applied_of_getGpr_ne effect (by simpa using hne)⟩

/-- An index read back through the table is the register itself (10_state.md R19). -/
theorem ofIndex_index (g : Reg) : Reg.ofIndex (BitVec.ofNat 4 g.index.val) = g := by
  cases g <;> rfl

/-- Every index names a slot, and the slot has that index (10_state.md R19). -/
theorem index_ofIndex (k : BitVec 4) : (Reg.ofIndex k).index.val = k.toNat := by
  revert k
  decide

/-- Settles O9: the listed names one by one, and the two round trips between indices and registers. -/
theorem registerIndexTable : Obligations.RegisterIndexTable :=
  ⟨by decide, ofIndex_index, index_ofIndex⟩

/-- Settles O19: `portsOf` of a failure is its code and zeros by definition. -/
theorem failurePayloadIsZero : Obligations.FailurePayloadIsZero :=
  fun _ => rfl

/-- Settles O20, from the four kinds of record that a `DECODE` makes. -/
theorem recordShape : Obligations.RecordShape := by
  intro q i h
  have hshape := recordOf_decodedRecord i
  exact ⟨respond_of_decodeRequest h, hshape.reg_eq, hshape.imm_eq_zero, hshape.flags_iff, hshape.of_test⟩

/-- Settles O21, from the four kinds of record that a `DECODE` makes. -/
theorem destinationSizeOnlyForLoads : Obligations.DestinationSizeOnlyForLoads := by
  intro i
  have hshape := recordOf_decodedRecord i
  exact ⟨hshape.destSize_isSome_iff, fun _ => hshape.accessSize_le_destSize⟩

/-- Settles O47: the request is made of the code, `rip` and the trap, so equal ones have equal responses. -/
theorem responseIgnoresSnapshot : Obligations.ResponseIgnoresSnapshot := by
  intro s s' hcode hrip hhalted htraps
  simp only [pendingResponse, requestOf_congr hcode hrip, hhalted, htraps]

end Sys2Proof.Machine
end

/-! # The device access

Every applied record makes one access of the device, and a refused one stops the form. -/

section
namespace Sys2Proof.Machine

variable {n d : Size} {v imm : Word} {len : Nat} {g : Option Reg} {q : Reg} {r : Record} {s t : State}

/-! ## Whether the access is served -/

theorem accessServed_iff : accessServed n s = true ↔
    (s.dev.misaligned = .served ∨ sizeBytes n ∣ s.trap.fa.toNat) := by
  cases hm : s.dev.misaligned with
  | served => simp [accessServed, Device.serves, hm]
  | refused => simp [accessServed, Device.serves, hm, Nat.dvd_iff_mod_eq_zero]

theorem emulateWrite_refused (h : accessServed n s = false) : emulateWrite n v len s = .refused .misalignedAccess :=
  if_neg (Bool.not_eq_true _ ▸ h)

theorem emulateRead_refused (h : accessServed n s = false) : emulateRead n d q len s = .refused .misalignedAccess :=
  if_neg (Bool.not_eq_true _ ▸ h)

theorem emulateTest_refused (h : accessServed .b1 s = false) : emulateTest imm len s = .refused .misalignedAccess :=
  if_neg (Bool.not_eq_true _ ▸ h)

theorem recordOf_accessSize (i : Instr) : (recordOf i).accessSize = accessSizeOf i := by
  cases i <;> rfl

/-- A decoded record whose access the device does not serve stops (20_memory.md R43, log 9). -/
theorem applyRecord_refused (hr : DecodedRecord len g r) (h : accessServed r.accessSize s = false) :
    applyRecord r s = .refused .misalignedAccess := by
  cases hr with
  | store | imm => exact emulateWrite_refused h
  | load => exact emulateRead_refused h
  | test => exact emulateTest_refused h

/-- Settles O31: the rule of the device, and the refusal of the record that the form applies. -/
theorem misalignedAccessStops : Obligations.MisalignedAccessStops := by
  refine ⟨fun n s => accessServed_iff, fun i s h => ?_⟩
  rw [exec_eq_applyRecord]
  exact applyRecord_refused (recordOf_decodedRecord i) (recordOf_accessSize i ▸ h)

/-! ## The access that a record makes -/

/-- An applied record adds one access to the trace (45_reference_consumer.md R130, R139). A TEST reads one byte whatever its
`access_size` says, so the record has to be a decoded one. -/
theorem trace_of_applied (hr : DecodedRecord len g r) (h : Applied r s t) :
    ∃ a : DevAccess, t.dev.trace = a :: s.dev.trace ∧ a.addr = s.trap.fa ∧ a.size = r.accessSize ∧
      (a.kind = .write ↔ r.type = .movWrite) := by
  cases h with
  | stored type => exact ⟨_, rfl, rfl, rfl, by simp [type]⟩
  | loaded type => exact ⟨_, rfl, rfl, rfl, by simp [type]⟩
  | tested type => exact ⟨_, rfl, rfl, (hr.of_test type).1.symm, by simp [type]⟩

/-- Settles O30, from the access of the record that the form applies. -/
theorem oneDeviceAccessPerInstruction : Obligations.OneDeviceAccessPerInstruction := by
  intro i s t h
  rw [exec_eq_applyRecord] at h
  rw [← recordOf_accessSize]
  exact trace_of_applied (recordOf_decodedRecord i) (applied_of_applyRecord h)

/-! ## The bytes that a record changes -/

/-- A store changes no byte outside its access (45_reference_consumer.md R139). -/
theorem devByte_deviceStore_other (hwf : Memory.wf s.dev.cells = true) {a : Nat}
    (ha : ∀ k < sizeBytes n, a ≠ accessAddr s k) : devByte (deviceStore n v s) a = devByte s a :=
  readByte_writeBytes_other _ _ _ hwf a ha

theorem trap_of_applied (h : Applied r s t) : t.trap = s.trap := by
  cases h <;> rfl

/-- Applying a record changes no byte of the device but those of the access of a MOV_WRITE (20_memory.md R44). -/
theorem movWrite_of_applied_of_devByte_ne (h : Applied r s t) (hwf : Memory.wf s.dev.cells = true) {a : Nat}
    (hne : devByte t a ≠ devByte s a) : r.type = .movWrite ∧ ∃ k < sizeBytes r.accessSize, a = accessAddr s k := by
  cases h with
  | stored type =>
    refine ⟨type, ?_⟩
    by_contra hout
    push Not at hout
    exact hne (devByte_deviceStore_other hwf hout)
  | loaded => exact absurd rfl hne
  | tested => exact absurd rfl hne

/-- Settles O45, by cases on what the step can be. -/
theorem onlyStoresChangeTheDevice : Obligations.OnlyStoresChangeTheDevice := by
  intro s t a hwf h hne
  cases stepCase_of_step h with
  | idle => exact absurd rfl hne
  | failed => exact absurd rfl hne
  | applied tr rest r t traps response effect =>
    obtain ⟨type, k, hk, ha⟩ := movWrite_of_applied_of_devByte_ne effect hwf hne
    have htrap : t.trap = tr := trap_of_applied effect
    refine ⟨r, response, type, by rw [traps, htrap]; rfl, k, hk, ?_⟩
    rw [ha, accessAddr, accessAddr, htrap, beginTrap_trap]

end Sys2Proof.Machine
end

/-! # The bytes of an accepted encoding

The decoder inverted, stage by stage: each stage answers exactly on the bytes that the encoder writes for its field, so an
accepted sequence is the bytes of its parts followed by bytes that nothing depends on. -/

section
namespace Sys2Proof.Machine

/-- The immediate as it stands in the bytes (30_encoding.md R73). -/
inductive Imm where
  | none
  | i8 (v : BitVec 8)
  | i16 (v : BitVec 16)
  | i32 (v : BitVec 32)

def Imm.size : Imm → Nat
  | .none => 0
  | .i8 _ => 1
  | .i16 _ => 2
  | .i32 _ => 4

def Imm.bytes : Imm → List Byte
  | .none => []
  | .i8 v => [v]
  | .i16 v => bytes16 v
  | .i32 v => bytes32 v

/-- The immediate zero-extended to 64 bits (30_encoding.md R74). -/
def Imm.value : Imm → Word
  | .none => 0#64
  | .i8 v => v.setWidth 64
  | .i16 v => v.setWidth 64
  | .i32 v => v.setWidth 64

theorem Imm.length_bytes (v : Imm) : v.bytes.length = v.size := by
  cases v <;> rfl

/-! ## When a stage answers -/

theorem response_bind_eq_ok_iff {α β : Type} {x : Response α} {f : α → Response β} {b : β} :
    x >>= f = .ok b ↔ ∃ a, x = .ok a ∧ f a = .ok b := by
  cases x with
  | error e => exact ⟨nofun, nofun⟩
  | ok a => simp [bind, Except.bind]

variable {bs rest : List Byte} {h66 : Bool} {rex : Option Rex} {op : Byte} {opc : Opcode}

theorem takeOpsize_append (h : h66 = false → rest.head? ≠ some 0x66#8) :
    takeOpsize (opsizeBytes h66 ++ rest) = (h66, rest) := by
  cases h66 with
  | true => exact takeOpsize_true rest
  | false =>
    cases rest with
    | nil => rfl
    | cons b rest => exact takeOpsize_false (by simpa using h rfl) rest

theorem eq_of_takeOpsize (h : takeOpsize bs = (h66, rest)) : bs = opsizeBytes h66 ++ rest := by
  cases bs with
  | nil => cases h; rfl
  | cons b bs =>
    rw [takeOpsize] at h
    split at h <;> cases h
    next hb => rw [hb]; rfl
    next => rfl

theorem takeRex_eq_ok_iff : takeRex bs = .ok (rex, op, rest) ↔
    bs = rexBytes rex ++ op :: rest ∧ isRexByte op = false := by
  constructor
  · intro h
    unfold takeRex at h
    split at h
    · cases h
    · split at h
      · split at h
        · cases h
        · split at h
          · cases h
          · cases h
            simp_all [rexBytes, rex_toByte_ofByte]
      · cases h
        simp_all [rexBytes]
  · rintro ⟨rfl, hop⟩
    cases rex with
    | none => exact takeRex_none hop rest
    | some p => exact takeRex_some p hop rest

theorem opcodeBytes_of_oneByteOpcode (h : oneByteOpcode op = some opc) : opcodeBytes opc = [op] := by
  unfold oneByteOpcode at h
  split_ifs at h with hop hop hop hop hop hop hop
  all_goals
    cases h
    rw [hop, opcodeBytes]

theorem opcodeBytes_of_twoByteOpcode (h : twoByteOpcode op = some opc) : opcodeBytes opc = [0x0F#8, op] := by
  unfold twoByteOpcode at h
  split_ifs at h with hop hop
  all_goals
    cases h
    rw [hop, opcodeBytes]

theorem takeOpcode_eq_ok_iff : takeOpcode op bs = .ok (opc, rest) ↔ op :: bs = opcodeBytes opc ++ rest := by
  constructor
  · intro h
    unfold takeOpcode at h
    split at h
    next hop =>
      split at h
      · cases h
      next op2 bs =>
        split at h
        next opc' h2 =>
          cases h
          rw [opcodeBytes_of_twoByteOpcode h2, hop, List.cons_append, List.singleton_append]
        · cases h
    · split at h
      next opc' h1 =>
        cases h
        rw [opcodeBytes_of_oneByteOpcode h1, List.singleton_append]
      · cases h
  · intro h
    cases opc <;> cases h <;> simp [takeOpcode, oneByteOpcode, twoByteOpcode]

theorem takeModRM_eq_ok_iff {m : ModRM} : takeModRM opc bs = .ok (m, rest) ↔
    bs = m.toByte :: rest ∧ m.mod ≠ 0b11#2 ∧ (opc.fixedReg = true → m.reg = 0#3) := by
  constructor
  · intro h
    unfold takeModRM at h
    split at h
    · cases h
    · split at h
      · cases h
      · split at h
        · cases h
        · cases h
          simp_all
  · rintro ⟨rfl, hmod, hreg⟩
    simpa [takeModRM, hmod] using hreg

theorem takeSib_eq_ok_iff {rm : BitVec 3} {sib : Option Sib} : takeSib rm bs = .ok (sib, rest) ↔
    bs = sibBytes sib ++ rest ∧ sib.isSome = (rm == 0b100#3) := by
  constructor
  · intro h
    unfold takeSib at h
    split at h
    · split at h
      · cases h
      · cases h
        simp_all [sibBytes]
    · cases h
      simp_all [sibBytes]
  · rintro ⟨rfl, hsib⟩
    exact takeSib_sibBytes hsib rest

theorem takeDisp_eq_ok_iff {n : Nat} {d : Disp} : takeDisp n bs = .ok (d, rest) ↔
    bs = dispBytes d ++ rest ∧ d.size = n := by
  constructor
  · intro h
    unfold takeDisp at h
    split at h <;> cases h
    · exact ⟨rfl, rfl⟩
    · exact ⟨rfl, rfl⟩
    · rw [dispBytes, bytes32_append]
      exact ⟨rfl, rfl⟩
  · rintro ⟨rfl, rfl⟩
    exact takeDisp_dispBytes d rest

theorem takeImm_eq_ok_iff {n : Nat} {w : Word} : takeImm n bs = .ok (w, rest) ↔
    ∃ v : Imm, bs = v.bytes ++ rest ∧ v.size = n ∧ v.value = w := by
  constructor
  · intro h
    unfold takeImm at h
    split at h <;> cases h
    · exact ⟨.none, rfl, rfl, rfl⟩
    · exact ⟨.i8 _, rfl, rfl, rfl⟩
    · exact ⟨.i16 _, by rw [Imm.bytes, bytes16_append]; rfl, rfl, rfl⟩
    · exact ⟨.i32 _, by rw [Imm.bytes, bytes32_append]; rfl, rfl, rfl⟩
  · rintro ⟨v, rfl, rfl, rfl⟩
    cases v with
    | none => rfl
    | i8 v => exact takeImm_byte v rest
    | i16 v => exact takeImm_bytes16 v rest
    | i32 v => exact takeImm_bytes32 v rest

/-- The checks of the prefixes in stages 2 and 3b together (30_encoding.md R57, R63). -/
theorem prefixesAccepted_iff : prefixesAccepted h66 rex opc = true ↔
    checkSizeConflict h66 rex = .ok () ∧ checkOpsize h66 opc = .ok () := by
  cases h66 with
  | false => cases opc <;> simp [prefixesAccepted, checkSizeConflict, checkOpsize]
  | true => cases opc <;> simp [prefixesAccepted, checkSizeConflict, checkOpsize]

/-! ## The parts of an encoding -/

/-- The parts of an encoding, in the order of its bytes (30_encoding.md R51). -/
structure Parts where
  h66 : Bool
  rex : Option Rex
  opc : Opcode
  field : BitVec 3
  mem : MemOperand
  imm : Imm

namespace Parts

def bytes (p : Parts) : List Byte :=
  assemble p.h66 p.rex (opcodeBytes p.opc) p.field p.mem p.imm.bytes

def instr (p : Parts) : Instr :=
  form p.opc p.h66 p.rex p.field p.mem p.imm.value

/-- The conditions that the stages check, none of them on the bytes after the encoding. -/
structure Accepted (p : Parts) : Prop where
  prefixes : prefixesAccepted p.h66 p.rex p.opc = true
  fixedReg : p.opc.fixedReg = true → p.field = 0#3
  mem : memOk p.mem = true
  imm : p.imm.size = immSize p.opc p.h66
  highByte : checkHighByte p.opc p.rex p.field = .ok ()

end Parts

/-- No opcode begins with a byte that stage 1 or 2 takes for itself. -/
theorem head_opcodeBytes (opc : Opcode) :
    ∃ op ops, opcodeBytes opc = op :: ops ∧ isRexByte op = false ∧ op ≠ 0x66#8 := by
  cases opc <;> exact ⟨_, _, rfl, by decide, by decide⟩

theorem head_rexBytes_opcodeBytes (rex : Option Rex) (opc : Opcode) (bs : List Byte) :
    (rexBytes rex ++ (opcodeBytes opc ++ bs)).head? ≠ some 0x66#8 := by
  cases rex with
  | none =>
    obtain ⟨op, ops, hops, -, h66⟩ := head_opcodeBytes opc
    simpa [rexBytes, hops] using h66
  | some p =>
    have hrex : isRexByte p.toByte = true := isRexByte_toByte p
    intro h
    have hp : p.toByte = 0x66#8 := by simpa [rexBytes] using h
    rw [hp] at hrex
    exact absurd hrex (by decide)

theorem memOk_iff {m : MemOperand} : memOk m = true ↔
    m.mod ≠ 0b11#2 ∧ m.sib.isSome = (m.rm == 0b100#3) ∧ m.disp.size = dispSize m.mod m.rm (m.sib.map Sib.base) := by
  simp only [memOk, Bool.and_eq_true, bne_iff_ne, beq_iff_eq, and_assoc]

/-- Bytes that decode are those of accepted parts, followed by the bytes left. -/
theorem parts_of_decodeInstr {i : Instr} (h : decodeInstr bs = .ok (i, rest)) :
    ∃ p : Parts, p.Accepted ∧ p.instr = i ∧ bs = p.bytes ++ rest := by
  obtain ⟨h66, bs', hopsize⟩ : ∃ h66 bs', takeOpsize bs = (h66, bs') := ⟨_, _, rfl⟩
  simp only [decodeInstr, hopsize, response_bind_eq_ok_iff, Prod.exists, takeRex_eq_ok_iff, takeOpcode_eq_ok_iff,
    takeModRM_eq_ok_iff, takeSib_eq_ok_iff, takeDisp_eq_ok_iff, takeImm_eq_ok_iff] at h
  obtain ⟨rex, op, _, ⟨hrex, -⟩, _, hconflict, opc, _, hopc, _, hsize, modrm, _, ⟨rfl, hmod, hreg⟩,
    sib, _, ⟨rfl, hsib⟩, disp, _, ⟨rfl, hdisp⟩, w, _, ⟨imm, rfl, himm, rfl⟩, _, hhigh, hret⟩ := h
  cases hret
  refine ⟨⟨h66, rex, opc, modrm.reg, ⟨modrm.mod, modrm.rm, sib, disp⟩, imm⟩, ?_, rfl, ?_⟩
  · exact ⟨prefixesAccepted_iff.mpr ⟨hconflict, hsize⟩, hreg, memOk_iff.mpr ⟨hmod, hsib, hdisp⟩, himm, hhigh⟩
  · simp only [eq_of_takeOpsize hopsize, hrex, hopc, Parts.bytes, assemble, List.append_assoc, List.cons_append]

/-- The bytes of accepted parts decode, whatever follows them. -/
theorem decodeInstr_bytes {p : Parts} (h : p.Accepted) (rest : List Byte) :
    decodeInstr (p.bytes ++ rest) = .ok (p.instr, rest) := by
  obtain ⟨hmod, hsib, hdisp⟩ := memOk_iff.mp h.mem
  obtain ⟨hconflict, hsize⟩ := prefixesAccepted_iff.mp h.prefixes
  obtain ⟨op, ops, hops, hop, -⟩ := head_opcodeBytes p.opc
  have hopsize := takeOpsize_append (h66 := p.h66) fun _ => head_rexBytes_opcodeBytes p.rex p.opc
    (ModRM.toByte ⟨p.mem.mod, p.field, p.mem.rm⟩ ::
      (sibBytes p.mem.sib ++ (dispBytes p.mem.disp ++ (p.imm.bytes ++ rest))))
  simp only [decodeInstr, Parts.bytes, assemble, List.append_assoc, List.cons_append, hopsize, response_bind_eq_ok_iff,
    Prod.exists, takeRex_eq_ok_iff, takeOpcode_eq_ok_iff, takeModRM_eq_ok_iff, takeSib_eq_ok_iff, takeDisp_eq_ok_iff,
    takeImm_eq_ok_iff]
  exact ⟨p.rex, op, _, ⟨by rw [hops]; rfl, hop⟩, (), hconflict, p.opc, _, by rw [hops]; rfl, (), hsize,
    ⟨p.mem.mod, p.field, p.mem.rm⟩, _, ⟨rfl, hmod, h.fixedReg⟩, p.mem.sib, _, ⟨rfl, hsib⟩,
    p.mem.disp, _, ⟨rfl, hdisp⟩, p.imm.value, rest, ⟨p.imm, rfl, h.imm, rfl⟩, (), h.highByte, rfl⟩

theorem form_length {field : BitVec 3} {m : MemOperand} {w : Word} (h : prefixesAccepted h66 rex opc = true) :
    (form opc h66 rex field m w).length = instLength h66 rex (opcodeBytes opc).length m (immSize opc h66) := by
  cases opc with
  | op88 | op8A | opC6 | opF6 =>
    obtain rfl : h66 = false := by simpa [prefixesAccepted] using h
    rfl
  | op0FB7 =>
    obtain rfl : h66 = false := by simpa [prefixesAccepted] using h
    cases hw : rexW rex <;> simp [form, hw] <;> rfl
  | op89 | op8B | opC7 | op0FB6 =>
    cases h66 with
    | true => rfl
    | false => cases hw : rexW rex <;> simp [form, hw] <;> rfl

theorem Parts.Accepted.length_instr {p : Parts} (h : p.Accepted) : p.instr.length = p.bytes.length := by
  rw [Parts.instr, form_length h.prefixes, Parts.bytes, Laws.assemble_length h.mem, Imm.length_bytes, h.imm]

/-! ## The response -/

variable {q q' : Request} {i : Instr}

theorem one_le_len_iff : 1 ≤ q.len.toNat ↔ q.len ≠ 0 := by
  rw [Nat.one_le_iff_ne_zero, ne_eq, ne_eq, ← BitVec.toNat_inj]
  rfl

theorem decodeRequest_of_validCall (h : validCall q) : decodeRequest q = (decodeInstr q.bytes).map Prod.fst := by
  obtain ⟨hpresent, hpos, hle⟩ := h
  have hcall : ¬(q.present = false ∨ q.len = 0) := not_or.mpr ⟨by simp [hpresent], one_le_len_iff.mp hpos⟩
  rw [decodeRequest, if_neg hcall, if_neg (Nat.not_lt.mpr hle)]

theorem validCall_of_decodeRequest (h : decodeRequest q = .ok i) : validCall q := by
  unfold decodeRequest at h
  split at h
  · cases h
  next hcall =>
    obtain ⟨hpresent, hlen⟩ := not_or.mp hcall
    split at h
    · cases h
    next hle => exact ⟨Bool.eq_true_of_not_eq_false hpresent, one_le_len_iff.mpr hlen, Nat.le_of_not_lt hle⟩

/-- A request is answered with an instruction exactly when its call is valid and its bytes begin with those of accepted
parts (40_decoder.md R85, R86). -/
theorem decodeRequest_eq_ok_iff : decodeRequest q = .ok i ↔
    validCall q ∧ ∃ (p : Parts) (rest : List Byte), p.Accepted ∧ p.instr = i ∧ q.bytes = p.bytes ++ rest := by
  constructor
  · intro h
    have hcall := validCall_of_decodeRequest h
    rw [decodeRequest_of_validCall hcall] at h
    cases hd : decodeInstr q.bytes with
    | error e => rw [hd] at h; cases h
    | ok a =>
      obtain ⟨i', rest⟩ := a
      rw [hd] at h
      cases h
      obtain ⟨p, hp⟩ := parts_of_decodeInstr hd
      exact ⟨hcall, p, rest, hp⟩
  · rintro ⟨hcall, p, rest, hp, rfl, hbytes⟩
    rw [decodeRequest_of_validCall hcall, hbytes, decodeInstr_bytes hp]
    rfl

theorem recordOf_length (i : Instr) : (recordOf i).length = i.length := by
  cases i <;> rfl

/-- Buffers that agree on the first `n` bytes have the same first `n` bytes. -/
theorem take_buf_congr {n : Nat} (h : ∀ k < n, bufByte q k = bufByte q' k) :
    q.buf.toList.take n = q'.buf.toList.take n := by
  refine List.ext_getElem (by simp) fun k hk hk' => ?_
  have hkn : k < n := (List.length_take ▸ hk).trans_le (min_le_left _ _)
  have hbuf := h k hkn
  simp only [List.length_take, Vector.length_toList] at hk
  rw [bufByte, bufByte, List.getD_eq_getElem _ _ (by simp; omega), List.getD_eq_getElem _ _ (by simp; omega)] at hbuf
  simpa using hbuf

theorem respond_congr (hpresent : q.present = q'.present) (hlen : q.len = q'.len)
    (hbuf : ∀ k < q.len.toNat, bufByte q k = bufByte q' k) : respond q = respond q' := by
  have hbytes : q.bytes = q'.bytes := by rw [Request.bytes, Request.bytes, ← hlen, take_buf_congr hbuf]
  rw [respond, respond, decodeRequest, decodeRequest, hpresent, hlen, hbytes]

/-- A decoded request stays decoded when bytes past its instruction change (20_memory.md R39). -/
theorem decodeRequest_congr_length (h : decodeRequest q = .ok i) (hpresent : q'.present = true) (hlen : q'.len = q.len)
    (hbuf : ∀ k < i.length, bufByte q k = bufByte q' k) : decodeRequest q' = .ok i := by
  obtain ⟨⟨-, hvalid⟩, p, rest, hp, rfl, hbytes⟩ := decodeRequest_eq_ok_iff.mp h
  refine decodeRequest_eq_ok_iff.mpr ⟨⟨hpresent, hlen ▸ hvalid⟩, p, q'.bytes.drop p.bytes.length, hp, rfl, ?_⟩
  have hle : p.bytes.length ≤ q.len.toNat := by
    have := congrArg List.length hbytes
    simp only [Request.bytes, List.length_take, Vector.length_toList, List.length_append] at this
    omega
  have htake : q'.bytes.take p.bytes.length = p.bytes := by
    calc q'.bytes.take p.bytes.length
        = q'.buf.toList.take p.bytes.length := by rw [Request.bytes, List.take_take, hlen, min_eq_left hle]
      _ = q.buf.toList.take p.bytes.length := (take_buf_congr (hp.length_instr ▸ hbuf)).symm
      _ = q.bytes.take p.bytes.length := by rw [Request.bytes, List.take_take, min_eq_left hle]
      _ = p.bytes := by rw [hbytes, List.take_left]
  rw [← List.take_append_drop p.bytes.length q'.bytes, htake, List.drop_left]

/-- Settles O6: the bytes that exist decide the response, and of those the encoding of its instruction alone. -/
theorem responseIgnoresUnreadBytes : Obligations.ResponseIgnoresUnreadBytes := by
  refine ⟨fun q q' => respond_congr, fun q q' r h hpresent hlen hbuf => ?_⟩
  obtain ⟨i, hi, rfl⟩ := respond_eq_ok_iff.mp h
  exact respond_of_decodeRequest (decodeRequest_congr_length hi hpresent hlen (recordOf_length i ▸ hbuf))

end Sys2Proof.Machine
end

/-! # Decode and encode agree

Each instruction has its parts, and an instruction is well formed exactly when its parts are accepted and make it again. Both
round trips follow from the inversion of the decoder above. -/

section
namespace Sys2Proof.Machine

/-- The parts of an instruction's own encoding, row by row (30_encoding.md R62). -/
def partsOf : Instr → Parts
  | .movM8R8 rex reg m => ⟨false, rex, .op88, reg.field, m, .none⟩
  | .movM16R16 rex reg m => ⟨true, rex, .op89, reg.field, m, .none⟩
  | .movM32R32 rex reg m => ⟨false, rex, .op89, reg.field, m, .none⟩
  | .movM64R64 rex reg m => ⟨false, rex, .op89, reg.field, m, .none⟩
  | .movR8M8 rex reg m => ⟨false, rex, .op8A, reg.field, m, .none⟩
  | .movR16M16 rex reg m => ⟨true, rex, .op8B, reg.field, m, .none⟩
  | .movR32M32 rex reg m => ⟨false, rex, .op8B, reg.field, m, .none⟩
  | .movR64M64 rex reg m => ⟨false, rex, .op8B, reg.field, m, .none⟩
  | .movM8I8 rex m imm => ⟨false, rex, .opC6, 0#3, m, .i8 imm⟩
  | .movM16I16 rex m imm => ⟨true, rex, .opC7, 0#3, m, .i16 imm⟩
  | .movM32I32 rex m imm => ⟨false, rex, .opC7, 0#3, m, .i32 imm⟩
  | .movM64I32 rex m imm => ⟨false, rex, .opC7, 0#3, m, .i32 imm⟩
  | .movzxR16M8 rex reg m => ⟨true, rex, .op0FB6, reg.field, m, .none⟩
  | .movzxR32M8 rex reg m => ⟨false, rex, .op0FB6, reg.field, m, .none⟩
  | .movzxR64M8 rex reg m => ⟨false, rex, .op0FB6, reg.field, m, .none⟩
  | .movzxR32M16 rex reg m => ⟨false, rex, .op0FB7, reg.field, m, .none⟩
  | .movzxR64M16 rex reg m => ⟨false, rex, .op0FB7, reg.field, m, .none⟩
  | .testM8I8 rex m imm => ⟨false, rex, .opF6, 0#3, m, .i8 imm⟩

theorem bytes_partsOf (i : Instr) : (partsOf i).bytes = encode i := by
  cases i <;> rfl

theorem Parts.accepted_iff {p : Parts} : p.Accepted ↔
    prefixesAccepted p.h66 p.rex p.opc = true ∧ (p.opc.fixedReg = true → p.field = 0#3) ∧ memOk p.mem = true ∧
      p.imm.size = immSize p.opc p.h66 ∧ checkHighByte p.opc p.rex p.field = .ok () :=
  ⟨fun ⟨hprefixes, hreg, hmem, himm, hhigh⟩ => ⟨hprefixes, hreg, hmem, himm, hhigh⟩,
    fun ⟨hprefixes, hreg, hmem, himm, hhigh⟩ => ⟨hprefixes, hreg, hmem, himm, hhigh⟩⟩

variable {rex : Option Rex} {reg : Reg} {opc : Opcode}

/-- REX.R is the high bit of the register exactly when the two fields name it (30_encoding.md R75). -/
theorem regOk_iff : regOk rex reg = true ↔ Reg.ofField (rexR rex) reg.field = reg := by
  rw [regOk, beq_iff_eq]
  constructor
  · intro h
    rw [h, reg_ofField_high_field]
  · intro h
    rw [← h, reg_high_ofField]

/-- Stage 8 passes an 8-bit register operand exactly when it is no legacy high byte (30_encoding.md R76). -/
theorem checkHighByte_iff_byteRegOk (h : opc = .op88 ∨ opc = .op8A) :
    checkHighByte opc rex reg.field = .ok () ↔ byteRegOk rex reg = true := by
  obtain rfl | rfl := h <;> simp [checkHighByte, byteRegOk, or_iff_not_imp_left]

/-- The well-formed instructions are those that their own parts, accepted, make again. -/
theorem wf_iff_accepted_partsOf {i : Instr} : i.wf = true ↔ (partsOf i).Accepted ∧ (partsOf i).instr = i := by
  rw [Parts.accepted_iff]
  cases i with
  | movM8R8 rex reg m | movR8M8 rex reg m =>
    simp [Instr.wf, partsOf, Parts.instr, form, rexOk, prefixesAccepted, Opcode.fixedReg, Imm.size, immSize,
      checkHighByte_iff_byteRegOk, regOk_iff, and_assoc, and_comm, and_left_comm]
  | movM16R16 rex reg m | movM32R32 rex reg m | movM64R64 rex reg m | movR16M16 rex reg m | movR32M32 rex reg m
  | movR64M64 rex reg m | movzxR16M8 rex reg m | movzxR32M8 rex reg m | movzxR64M8 rex reg m | movzxR32M16 rex reg m
  | movzxR64M16 rex reg m =>
    cases hw : rexW rex <;>
      simp [Instr.wf, partsOf, Parts.instr, form, rexOk, prefixesAccepted, Opcode.fixedReg, Imm.size, immSize,
        checkHighByte, regOk_iff, hw, and_comm]
  | movM8I8 rex m imm | movM16I16 rex m imm | movM32I32 rex m imm | movM64I32 rex m imm | testM8I8 rex m imm =>
    cases hw : rexW rex <;>
      simp [Instr.wf, partsOf, Parts.instr, form, rexOk, prefixesAccepted, Opcode.fixedReg, Imm.size, immSize,
        checkHighByte, Imm.value, hw]

/-- The instruction that accepted parts make keeps every bit of them. -/
theorem partsOf_instr {p : Parts} (h : p.Accepted) : partsOf p.instr = p := by
  obtain ⟨hprefixes, hreg, -, himm, -⟩ := h
  obtain ⟨h66, rex, opc, field, m, imm⟩ := p
  cases opc with
  | op88 | op8A =>
    obtain rfl : h66 = false := by simpa [prefixesAccepted] using hprefixes
    cases imm <;> cases himm
    simp [Parts.instr, form, partsOf]
  | op89 | op8B | op0FB6 =>
    cases imm <;> cases himm
    cases h66 <;> cases hw : rexW rex <;> simp [Parts.instr, form, partsOf, hw]
  | op0FB7 =>
    obtain rfl : h66 = false := by simpa [prefixesAccepted] using hprefixes
    cases imm <;> cases himm
    cases hw : rexW rex <;> simp [Parts.instr, form, partsOf, hw]
  | opC6 | opF6 =>
    obtain rfl : h66 = false := by simpa [prefixesAccepted] using hprefixes
    obtain rfl : field = 0#3 := hreg rfl
    cases imm <;> cases himm
    simp [Parts.instr, form, partsOf, Imm.value]
  | opC7 =>
    obtain rfl : field = 0#3 := hreg rfl
    cases h66 with
    | true =>
      cases imm <;> cases himm
      simp [Parts.instr, form, partsOf, Imm.value]
    | false =>
      cases imm <;> cases himm
      cases hw : rexW rex <;> simp [Parts.instr, form, partsOf, Imm.value, hw]

/-- Settles O1: the encoding is that of the instruction's own parts, and those are accepted. -/
theorem decodeOfEncodeReturnsInstruction : Obligations.DecodeOfEncodeReturnsInstruction := by
  intro i rest hwf
  obtain ⟨haccepted, hinstr⟩ := wf_iff_accepted_partsOf.mp hwf
  rw [← bytes_partsOf, decodeInstr_bytes haccepted, hinstr]

/-- Settles O2: bytes that decode are those of accepted parts, and these are the parts of the instruction they make. -/
theorem decodeAcceptsOnlyEncodings : Obligations.DecodeAcceptsOnlyEncodings := by
  intro bytes i rest h
  obtain ⟨p, haccepted, rfl, hbytes⟩ := parts_of_decodeInstr h
  have hparts := partsOf_instr haccepted
  exact ⟨wf_iff_accepted_partsOf.mpr ⟨hparts.symm ▸ haccepted, by rw [hparts]⟩, by rw [← bytes_partsOf, hparts, hbytes]⟩

end Sys2Proof.Machine
end

/-! # What the prefixes decide

Stages 1 and 2 take the prefixes off the front, and the stages after them see of the REX only W, R and whether it is there. -/

section
namespace Sys2Proof.Machine

/-- The last check of stage 2, and stages 3 to 8, on the opcode byte that stage 2 found and the bytes after it
(40_decoder.md R84). -/
def decodeOpcode (h66 : Bool) (rex : Option Rex) (op : Byte) (bs : List Byte) : Response (Instr × List Byte) := do
  checkSizeConflict h66 rex
  let (opc, bs) ← takeOpcode op bs
  checkOpsize h66 opc
  let (modrm, bs) ← takeModRM opc bs
  let (sib, bs) ← takeSib modrm.rm bs
  let (disp, bs) ← takeDisp (dispSize modrm.mod modrm.rm (sib.map Sib.base)) bs
  let (imm, bs) ← takeImm (immSize opc h66) bs
  checkHighByte opc rex modrm.reg
  return (form opc h66 rex modrm.reg ⟨modrm.mod, modrm.rm, sib, disp⟩ imm, bs)

variable {bs rest : List Byte} {h66 : Bool} {rex rex' : Option Rex} {op : Byte} {e : Failure}

/-! ## The prefixes taken off -/

/-- The decoder is stages 1 and 2 up to the opcode byte, and then `decodeOpcode`. -/
theorem decodeInstr_eq_takeRex_bind (bs : List Byte) : decodeInstr bs =
    takeRex (takeOpsize bs).2 >>= fun a => decodeOpcode (takeOpsize bs).1 a.1 a.2.1 a.2.2 := rfl

theorem decodeInstr_of_takeRex_ok (hopsize : takeOpsize bs = (h66, rest)) {bs' : List Byte}
    (hrex : takeRex rest = .ok (rex, op, bs')) : decodeInstr bs = decodeOpcode h66 rex op bs' := by
  rw [decodeInstr_eq_takeRex_bind, hopsize, hrex]
  rfl

theorem decodeInstr_of_takeRex_error (hopsize : takeOpsize bs = (h66, rest)) (hrex : takeRex rest = .error e) :
    decodeInstr bs = .error e := by
  rw [decodeInstr_eq_takeRex_bind, hopsize, hrex]
  rfl

/-- A REX byte is no `0x66`, so stage 1 leaves it (30_encoding.md R53). -/
theorem takeOpsize_rex (h66 : Bool) (p : Rex) (bs : List Byte) :
    takeOpsize (opsizeBytes h66 ++ p.toByte :: bs) = (h66, p.toByte :: bs) := by
  refine takeOpsize_append fun _ h => ?_
  have hbyte : p.toByte = 0x66#8 := Option.some.inj h
  exact absurd (hbyte ▸ isRexByte_toByte p) (by decide)

theorem takeRex_rex_nil (p : Rex) : takeRex [p.toByte] = .error .outOfRange := by
  simp [takeRex]

theorem takeRex_rex_rex (p : Rex) (h : isRexByte op = true) (bs : List Byte) :
    takeRex (p.toByte :: op :: bs) = .error .unsupported := by
  simp [takeRex, h]

/-- After any prefixes, a byte that stages 1 and 2 do not take for one of their own is decoded as the opcode. -/
theorem decodeInstr_prefixes (hop : isRexByte op = false) (h : op = 0x66#8 → h66 = true ∨ rex.isSome = true) :
    decodeInstr (opsizeBytes h66 ++ (rexBytes rex ++ op :: rest)) = decodeOpcode h66 rex op rest := by
  refine decodeInstr_of_takeRex_ok ?_ (takeRex_eq_ok_iff.mpr ⟨rfl, hop⟩)
  cases rex with
  | none => exact takeOpsize_append fun hfalse hhead => by simpa [hfalse] using h (Option.some.inj hhead)
  | some p => exact takeOpsize_rex h66 p (op :: rest)

/-! ## Prefixes and opcodes that fail -/

theorem checkSizeConflict_cases (h66 : Bool) (rex : Option Rex) :
    checkSizeConflict h66 rex = .error .unsupported ∨ checkSizeConflict h66 rex = .ok () :=
  ite_eq_or_eq ..

theorem decodeOpcode_of_conflict (h : checkSizeConflict h66 rex = .error e) : decodeOpcode h66 rex op bs = .error e := by
  rw [decodeOpcode, h]
  rfl

/-- An opcode outside the maps is `Unsupported` whatever the prefixes, since their conflict is `Unsupported` too. -/
theorem decodeOpcode_of_takeOpcode (h : takeOpcode op bs = .error .unsupported) :
    decodeOpcode h66 rex op bs = .error .unsupported := by
  obtain hconflict | hconflict := checkSizeConflict_cases h66 rex
  · exact decodeOpcode_of_conflict hconflict
  · rw [decodeOpcode, hconflict, h]
    rfl

theorem takeOpcode_other (h : op ∉ [0x88#8, 0x89#8, 0x8A#8, 0x8B#8, 0xC6#8, 0xC7#8, 0xF6#8, 0x0F#8])
    (bs : List Byte) : takeOpcode op bs = .error .unsupported := by
  simp only [List.mem_cons, List.not_mem_nil, or_false, not_or] at h
  simp [takeOpcode, oneByteOpcode, h]

theorem takeOpcode_escape_other (h : op ∉ [0xB6#8, 0xB7#8]) (bs : List Byte) :
    takeOpcode 0x0F#8 (op :: bs) = .error .unsupported := by
  simp only [List.mem_cons, List.not_mem_nil, or_false, not_or] at h
  simp [takeOpcode, twoByteOpcode, h]

/-- Settles O16: the byte reaches stage 3 past any prefixes, and stage 3 has no entry for it. -/
theorem otherOpcodesAreUnsupported : Obligations.OtherOpcodesAreUnsupported := by
  constructor
  · intro h66 rex op rest hop h hmap
    rw [decodeInstr_prefixes hop h, decodeOpcode_of_takeOpcode (takeOpcode_other hmap rest)]
  · intro h66 rex op2 rest hmap
    rw [decodeInstr_prefixes (by decide) fun h => absurd h (by decide),
      decodeOpcode_of_takeOpcode (takeOpcode_escape_other hmap rest)]

theorem decodeInstr_second_rex (h66 : Bool) (p : Rex) (h : isRexByte op = true) (rest : List Byte) :
    decodeInstr (opsizeBytes h66 ++ p.toByte :: op :: rest) = .error .unsupported :=
  decodeInstr_of_takeRex_error (takeOpsize_rex h66 p _) (takeRex_rex_rex p h rest)

/-- Settles O17: stage 2 refuses a second REX, and otherwise its last check refuses `0x66` with REX.W. -/
theorem secondRexAndSizeConflictAreUnsupported : Obligations.SecondRexAndSizeConflictAreUnsupported := by
  refine ⟨fun h66 p b rest h => decodeInstr_second_rex h66 p h rest, fun p b rest hw => ?_⟩
  cases hb : isRexByte b with
  | true => exact decodeInstr_second_rex true p hb rest
  | false =>
    have hconflict : checkSizeConflict true (some p) = .error .unsupported := if_pos hw
    exact (decodeInstr_prefixes (h66 := true) (rex := some p) hb fun _ => .inl rfl).trans
      (decodeOpcode_of_conflict hconflict)

/-! ## What the later stages see of the REX -/

theorem response_map_bind_congr {α β γ : Type} {x : Response α} {f f' : α → Response β} {g : β → γ}
    (h : ∀ a, (f a).map g = (f' a).map g) : (x >>= f).map g = (x >>= f').map g := by
  cases x with
  | error e => rfl
  | ok a => exact h a

/-- REX prefixes with the same W and R, both present or both absent. REX.X and REX.B are free (30_encoding.md R72). -/
structure SameRexWR (rex rex' : Option Rex) : Prop where
  w : rexW rex = rexW rex'
  r : rexR rex = rexR rex'
  present : rex.isSome = rex'.isSome

namespace SameRexWR

theorem checkSizeConflict_eq (h : SameRexWR rex rex') : checkSizeConflict h66 rex = checkSizeConflict h66 rex' := by
  rw [checkSizeConflict, h.w, checkSizeConflict]

theorem checkHighByte_eq (h : SameRexWR rex rex') (opc : Opcode) (field : BitVec 3) :
    checkHighByte opc rex field = checkHighByte opc rex' field := by
  have hnone : rex.isNone = rex'.isNone := by rw [← Option.not_isSome, h.present, Option.not_isSome]
  cases opc <;> simp only [checkHighByte, hnone]

theorem instLength_eq (h : SameRexWR rex rex') (h66 : Bool) (nop : Nat) (m : MemOperand) (nimm : Nat) :
    instLength h66 rex nop m nimm = instLength h66 rex' nop m nimm := by
  rw [instLength, h.present, instLength]

theorem recordOf_form_eq (h : SameRexWR rex rex') (opc : Opcode) (h66 : Bool) (field : BitVec 3) (m : MemOperand)
    (imm : Word) : recordOf (form opc h66 rex field m imm) = recordOf (form opc h66 rex' field m imm) := by
  cases opc with
  | op88 | op8A | opC6 | opF6 => simp only [form, recordOf, Instr.length, h.r, h.instLength_eq]
  | op89 | op8B | opC7 | op0FB6 | op0FB7 =>
    simp only [form, h.w, h.r]
    split_ifs <;> simp only [recordOf, Instr.length, h.instLength_eq]

theorem decodeOpcode_record_eq (h : SameRexWR rex rex') :
    (decodeOpcode h66 rex op bs).map (fun a => recordOf a.1) =
      (decodeOpcode h66 rex' op bs).map (fun a => recordOf a.1) := by
  rw [decodeOpcode, decodeOpcode, h.checkSizeConflict_eq]
  refine response_map_bind_congr fun () => response_map_bind_congr fun (opc, bs) => response_map_bind_congr fun () =>
    response_map_bind_congr fun (modrm, bs) => response_map_bind_congr fun (sib, bs) =>
    response_map_bind_congr fun (disp, bs) => response_map_bind_congr fun (imm, bs) => ?_
  dsimp only
  rw [h.checkHighByte_eq]
  exact response_map_bind_congr fun () => congrArg Except.ok (h.recordOf_form_eq ..)

end SameRexWR

/-- Settles O7: stages 1 and 2 answer alike on both REX bytes, and the later stages see only their W and R. -/
theorem rexIndexAndBaseBitsAreIgnored : Obligations.RexIndexAndBaseBitsAreIgnored := by
  intro h66 p x b rest
  have hsame : SameRexWR (some p) (some ⟨p.w, p.r, x, b⟩) := ⟨rfl, rfl, rfl⟩
  cases rest with
  | nil =>
    rw [decodeInstr_of_takeRex_error (takeOpsize_rex ..) (takeRex_rex_nil _),
      decodeInstr_of_takeRex_error (takeOpsize_rex ..) (takeRex_rex_nil _)]
  | cons op rest =>
    cases hop : isRexByte op with
    | true => rw [decodeInstr_second_rex h66 _ hop, decodeInstr_second_rex h66 _ hop]
    | false =>
      rw [decodeInstr_of_takeRex_ok (takeOpsize_rex ..) (takeRex_some _ hop rest),
        decodeInstr_of_takeRex_ok (takeOpsize_rex ..) (takeRex_some _ hop rest), hsame.decodeOpcode_record_eq]

/-! ## The displacement size -/

/-- With mod = 00 the displacement is there only when nothing else gives the address a base (30_encoding.md R69). -/
theorem dispSize_mod_zero (rm : BitVec 3) (base : Option (BitVec 3)) :
    dispSize 0b00 rm base = if rm = 0b101#3 ∨ base = some 0b101#3 then 4 else 0 := rfl

/-- Settles O10: mod = 01 and mod = 10 fix the size, mod = 00 leaves it to rm and the SIB base. -/
theorem displacementSizeTable : Obligations.DisplacementSizeTable := by
  intro rm base
  refine ⟨rfl, rfl, rfl, rfl, rfl, rfl, fun hbase => ?_, fun hrm => ?_⟩
  · exact (dispSize_mod_zero ..).trans (if_neg (not_or.mpr ⟨by decide, hbase ∘ Option.some.inj⟩))
  · exact (dispSize_mod_zero ..).trans (if_neg (not_or.mpr ⟨hrm, nofun⟩))

end Sys2Proof.Machine
end

/-! # The consumed length

An accepted encoding is as long as its parts, and each part has its own bound. -/

section
namespace Sys2Proof.Machine

variable {h66 : Bool} {rex : Option Rex} {opc : Opcode}

theorem sibSize_le_one (mod : BitVec 2) (rm : BitVec 3) : sibSize mod rm ≤ 1 := by
  unfold sibSize
  split <;> decide

theorem dispSize_cases (mod : BitVec 2) (rm : BitVec 3) (base : Option (BitVec 3)) :
    dispSize mod rm base = 0 ∨ dispSize mod rm base = 1 ∨ dispSize mod rm base = 4 := by
  unfold dispSize
  split_ifs <;> simp

theorem opcodeBytes_length_pos (opc : Opcode) : 1 ≤ (opcodeBytes opc).length := by
  cases opc <;> decide

/-- No instruction has both `0x66` and a 4-byte immediate, or an immediate after a 2-byte opcode (30_encoding.md R63,
R73). -/
theorem opsize_opcode_imm_le (h : prefixesAccepted h66 rex opc = true) :
    h66.toNat + (opcodeBytes opc).length + immSize opc h66 ≤ 5 := by
  cases opc with
  | op88 | op8A | opC6 | opF6 | op0FB7 =>
    obtain rfl : h66 = false := by simpa [prefixesAccepted] using h
    decide
  | op89 | op8B | opC7 | op0FB6 => cases h66 <;> decide

/-- The shortest encoding is opcode and ModRM; the longest has a REX, a SIB byte, 4 bytes of displacement and 4 of immediate
(30_encoding.md R52). -/
theorem Parts.Accepted.length_bounds {p : Parts} (h : p.Accepted) : 2 ≤ p.instr.length ∧ p.instr.length ≤ 12 := by
  rw [Parts.instr, form_length h.prefixes, instLength]
  have hopc := opcodeBytes_length_pos p.opc
  have hfixed := opsize_opcode_imm_le h.prefixes
  have hrex := Bool.toNat_le p.rex.isSome
  have hsib := sibSize_le_one p.mem.mod p.mem.rm
  have hdisp := dispSize_cases p.mem.mod p.mem.rm (p.mem.sib.map Sib.base)
  omega

theorem length_bytes_le (q : Request) : q.bytes.length ≤ q.len.toNat :=
  List.length_take_le ..

/-- Settles O4: the instruction is as long as the bytes of its parts, and each part has its own bound. -/
theorem consumedLengthIsBounded : Obligations.ConsumedLengthIsBounded := by
  constructor
  · intro bytes i rest h
    obtain ⟨p, haccepted, rfl, rfl⟩ := parts_of_decodeInstr h
    exact ⟨by rw [List.length_append, haccepted.length_instr], haccepted.length_bounds⟩
  · intro q r h
    obtain ⟨i, hi, rfl⟩ := respond_eq_ok_iff.mp h
    obtain ⟨-, p, rest, haccepted, rfl, hbytes⟩ := decodeRequest_eq_ok_iff.mp hi
    obtain ⟨hlow, hhigh⟩ := haccepted.length_bounds
    have hlen : p.instr.length ≤ q.len.toNat := by
      calc p.instr.length = p.bytes.length := haccepted.length_instr
        _ ≤ q.bytes.length := by simp [hbytes]
        _ ≤ q.len.toNat := length_bytes_le q
    rw [recordOf_length]
    exact ⟨hlow, le_min hlen hhigh⟩

end Sys2Proof.Machine
end

/-! # The decoder is the algorithm of R84

R84 reads the buffer at a cursor; the machine's stages take bytes off the front. Stage by stage, from the last to the first,
R84 with its cursor at `p` answers what the machine's stage answers on the bytes from `p` up; the cursor, summed over the
parts passed, is then the length in the record. -/

section
namespace Sys2Proof.Machine

/-! ## Reading at the cursor -/

variable {q : Request} {p n : Nat} {h66 : Bool} {rex : Option Rex} {opc : Opcode}

theorem needThen_congr {α : Type} {x y : Response α} (h : n ≤ q.len.toNat → x = y) :
    needThen q n x = needThen q n y := by
  unfold needThen
  split
  · rfl
  next hn => exact h (Nat.le_of_not_lt hn)

theorem needThen_bind {α β : Type} (q : Request) (n : Nat) (x : Response α) (f : α → Response β) :
    needThen q n x >>= f = needThen q n (x >>= f) := by
  unfold needThen
  split <;> rfl

/-- The `n` bytes of the buffer from `p` up. -/
def bufBytes (q : Request) : Nat → Nat → List Byte
  | _, 0 => []
  | p, n + 1 => bufByte q p :: bufBytes q (p + 1) n

theorem drop_bytes (hq : q.len.toNat ≤ 15) (h : p + n ≤ q.len.toNat) :
    q.bytes.drop p = bufBytes q p n ++ q.bytes.drop (p + n) := by
  induction n generalizing p with
  | zero => rfl
  | succ n ih =>
    have hp : p < q.bytes.length := by simp [Request.bytes]; omega
    have hbyte : q.bytes[p] = bufByte q p := by
      rw [bufByte, List.getD_eq_getElem _ _ (by simp; omega)]
      simp [Request.bytes]
    rw [List.drop_eq_getElem_cons hp, hbyte, ih (by omega), bufBytes, List.cons_append, Nat.add_right_comm,
      Nat.add_assoc]

/-- A stage that needs `n` bytes, on the bytes from the cursor: `need` of 40_decoder.md R83, and then the stage on the bytes
of the buffer. -/
theorem stage_at_cursor {α : Type} {f : List Byte → Response α} (hq : q.len.toNat ≤ 15) (hp : p ≤ q.len.toNat)
    (hf : ∀ bs, bs.length < n → f bs = .error .outOfRange) :
    f (q.bytes.drop p) = needThen q (p + n) (f (bufBytes q p n ++ q.bytes.drop (p + n))) := by
  unfold needThen
  split
  next hshort => exact hf _ (by simp [Request.bytes]; omega)
  next henough => rw [drop_bytes hq (Nat.le_of_not_lt henough)]

/-- `stage_at_cursor` for one byte. -/
theorem stage_at_cursor_one {α : Type} {f : List Byte → Response α} (hq : q.len.toNat ≤ 15) (hp : p ≤ q.len.toNat)
    (hf : f [] = .error .outOfRange) :
    f (q.bytes.drop p) = needThen q (p + 1) (f (bufByte q p :: q.bytes.drop (p + 1))) :=
  stage_at_cursor hq hp fun bs hbs => by rw [List.length_eq_zero_iff.mp (Nat.lt_one_iff.mp hbs), hf]

theorem takeDisp_short (bs : List Byte) (h : bs.length < n) : takeDisp n bs = .error .outOfRange := by
  unfold takeDisp
  split
  · exact absurd h (Nat.not_lt_zero _)
  · simp at h
  · simp at h; omega
  · rfl

theorem takeImm_short (bs : List Byte) (h : bs.length < n) : takeImm n bs = .error .outOfRange := by
  unfold takeImm
  split
  · exact absurd h (Nat.not_lt_zero _)
  · simp at h
  · simp at h
  · simp at h; omega
  · rfl

/-- The displacement at the cursor. No record depends on its value (30_encoding.md R70). -/
theorem takeDisp_at_cursor (hq : q.len.toNat ≤ 15) (hp : p ≤ q.len.toNat) (hn : n = 0 ∨ n = 1 ∨ n = 4) :
    ∃ d, takeDisp n (q.bytes.drop p) = needThen q (p + n) (.ok (d, q.bytes.drop (p + n))) := by
  rw [stage_at_cursor hq hp takeDisp_short]
  obtain rfl | rfl | rfl := hn <;> exact ⟨_, rfl⟩

/-- The SIB byte at the cursor. -/
theorem takeSib_at_cursor (hq : q.len.toNat ≤ 15) (hp : p ≤ q.len.toNat) {rm : BitVec 3} (hrm : rm = 0b100#3) :
    takeSib rm (q.bytes.drop p) = needThen q (p + 1) (.ok (some (Sib.ofByte (bufByte q p)), q.bytes.drop (p + 1))) := by
  rw [stage_at_cursor_one (f := takeSib rm) hq hp (if_pos hrm)]
  exact congrArg _ (if_pos hrm)

theorem takeSib_absent {rm : BitVec 3} (hrm : rm ≠ 0b100#3) (bs : List Byte) : takeSib rm bs = .ok (none, bs) :=
  if_neg hrm

theorem shift_or_eq_append {k : Nat} (w : BitVec k) (b : Byte) :
    (w.setWidth 64 <<< 8) ||| b.setWidth 64 = (w ++ b).setWidth 64 := by
  ext i hi
  simp only [BitVec.getElem_or, BitVec.getElem_shiftLeft, BitVec.getElem_setWidth, BitVec.getLsbD_append]
  by_cases h : i < 8
  · simp [h]
  · simp [h, BitVec.getLsbD_of_ge b i (Nat.le_of_not_lt h)]

/-- The immediate at the cursor is `LE` of 40_decoder.md R94. -/
theorem takeImm_at_cursor (hq : q.len.toNat ≤ 15) (hp : p ≤ q.len.toNat) (hn : n = 0 ∨ n = 1 ∨ n = 2 ∨ n = 4) :
    takeImm n (q.bytes.drop p) = needThen q (p + n) (.ok (bufLE q p n, q.bytes.drop (p + n))) := by
  rw [stage_at_cursor hq hp takeImm_short]
  obtain rfl | rfl | rfl | rfl := hn
  · rfl
  · simp [bufBytes, takeImm, bufLE]
  · simp [bufBytes, takeImm, bufLE, ← shift_or_eq_append]
  · simp [bufBytes, takeImm, bufLE, ← shift_or_eq_append]

/-! ## The stages that answer a record -/

/-- Stages 7 and 8 and the record, on the bytes from the immediate up (40_decoder.md R94 to R96). -/
def recordStage7 (h66 : Bool) (rex : Option Rex) (opc : Opcode) (field : BitVec 3) (m : MemOperand) (bs : List Byte) :
    Response Record :=
  takeImm (immSize opc h66) bs >>= fun imm => checkHighByte opc rex field >>= fun _ =>
    .ok (recordOf (form opc h66 rex field m imm.1))

/-- Stages 5 and 6 and what follows, on the bytes after ModRM (40_decoder.md R92, R93). -/
def recordStage5 (h66 : Bool) (rex : Option Rex) (opc : Opcode) (modrm : ModRM) (bs : List Byte) : Response Record :=
  takeSib modrm.rm bs >>= fun sib => takeDisp (dispSize modrm.mod modrm.rm (sib.1.map Sib.base)) sib.2 >>= fun disp =>
    recordStage7 h66 rex opc modrm.reg ⟨modrm.mod, modrm.rm, sib.1, disp.1⟩ disp.2

/-- Stage 4 and what follows, on the bytes from ModRM up (40_decoder.md R91). -/
def recordStage4 (h66 : Bool) (rex : Option Rex) (opc : Opcode) (bs : List Byte) : Response Record :=
  takeModRM opc bs >>= fun modrm => recordStage5 h66 rex opc modrm.1 modrm.2

/-- Stages 3 and 3b and what follows, on the opcode byte and the bytes after it (40_decoder.md R89, R90). -/
def recordStage3 (h66 : Bool) (rex : Option Rex) (op : Byte) (bs : List Byte) : Response Record :=
  takeOpcode op bs >>= fun opc => checkOpsize h66 opc.1 >>= fun _ => recordStage4 h66 rex opc.1 opc.2

/-- Stage 2 and what follows, on the bytes after `0x66` (40_decoder.md R88). -/
def recordStage2 (h66 : Bool) (bs : List Byte) : Response Record :=
  takeRex bs >>= fun rex => checkSizeConflict h66 rex.1 >>= fun _ => recordStage3 h66 rex.1 rex.2.1 rex.2.2

theorem response_bind_map {α β γ : Type} (x : Response α) (f : α → Response β) (g : β → γ) :
    (x >>= f).map g = x >>= fun a => (f a).map g := by
  cases x <;> rfl

/-- The decoder's stages, with the record of the instruction made in the last. -/
theorem decodeInstr_map_recordOf (bs : List Byte) : (decodeInstr bs).map (fun a => recordOf a.1) =
    recordStage2 (takeOpsize bs).1 (takeOpsize bs).2 := by
  simp only [decodeInstr, response_bind_map]
  rfl

theorem respond_of_validCall (h : validCall q) :
    respond q = recordStage2 (takeOpsize q.bytes).1 (takeOpsize q.bytes).2 := by
  rw [respond, decodeRequest_of_validCall h, ← decodeInstr_map_recordOf]
  cases decodeInstr q.bytes <;> rfl

/-! ## Opcodes and prefixes as 40_decoder.md R84 holds them -/

/-- The opcode as one number, `0x0F` first if it has two bytes (40_decoder.md R89). -/
def opcodeNumber (opc : Opcode) : Nat :=
  (opcodeBytes opc).foldl (fun n b => 256 * n + b.toNat) 0

/-- The REX byte as R84 keeps it: 0 if there is none (40_decoder.md R88). -/
def rexRaw : Option Rex → Byte
  | none => 0x00#8
  | some p => p.toByte

theorem rexRaw_w (rex : Option Rex) : (rexRaw rex).getLsbD 3 = rexW rex := by
  cases rex with
  | none => rfl
  | some p => exact congrArg Rex.w (ofByte_rex_toByte p)

theorem rexRaw_r (rex : Option Rex) : (rexRaw rex).getLsbD 2 = rexR rex := by
  cases rex with
  | none => rfl
  | some p => exact congrArg Rex.r (ofByte_rex_toByte p)

/-- Row by row, R96 lists the record of the instruction; a zero-extended immediate is read back whole. -/
theorem formR96_eq (h : prefixesAccepted h66 rex opc = true) (field : BitVec 3) (m : MemOperand) {v : Imm}
    (hv : v.size = immSize opc h66) :
    formR96 (opcodeNumber opc) h66 (rexW rex) (BitVec.ofBool (rexR rex) ++ field) v.value
        (instLength h66 rex (opcodeBytes opc).length m (immSize opc h66)) =
      some (recordOf (form opc h66 rex field m v.value)) := by
  cases opc with
  | op88 | op8A =>
    obtain rfl : h66 = false := by simpa [prefixesAccepted] using h
    rfl
  | opC6 | opF6 =>
    obtain rfl : h66 = false := by simpa [prefixesAccepted] using h
    cases v <;> cases hv
    simp [form, recordOf, Imm.value]
    rfl
  | op0FB7 =>
    obtain rfl : h66 = false := by simpa [prefixesAccepted] using h
    cases hw : rexW rex <;> simp [form, hw] <;> rfl
  | op89 | op8B | op0FB6 =>
    cases h66 <;> cases hw : rexW rex <;> simp_all [form, prefixesAccepted] <;> rfl
  | opC7 =>
    cases h66 <;> cases v <;> cases hv <;> cases hw : rexW rex <;>
      simp_all [form, prefixesAccepted, Imm.value, recordOf] <;> rfl

theorem immSize_cases (opc : Opcode) (h66 : Bool) :
    immSize opc h66 = 0 ∨ immSize opc h66 = 1 ∨ immSize opc h66 = 2 ∨ immSize opc h66 = 4 := by
  cases opc <;> cases h66 <;> decide

/-- `nimm` of stage 7. -/
theorem immSize_eq_r84 (opc : Opcode) (h66 : Bool) : immSize opc h66 =
    if opcodeNumber opc = 0xC6 ∨ opcodeNumber opc = 0xF6 then 1
    else if opcodeNumber opc = 0xC7 then (if h66 then 2 else 4) else 0 := by
  cases opc <;> rfl

theorem legacyHighByte_isSome_iff (field : BitVec 3) :
    (legacyHighByte field).isSome = true ↔ field = 4 ∨ field = 5 ∨ field = 6 ∨ field = 7 := by
  revert field
  decide

/-- The check of stage 8. -/
theorem checkHighByte_eq_r84 (opc : Opcode) (rex : Option Rex) (field : BitVec 3) : checkHighByte opc rex field =
    if (opcodeNumber opc = 0x88 ∨ opcodeNumber opc = 0x8A) ∧ rex.isSome = false ∧
      (field = 4 ∨ field = 5 ∨ field = 6 ∨ field = 7) then .error .unsupported else .ok () := by
  cases opc <;> simp [checkHighByte, opcodeNumber, opcodeBytes, legacyHighByte_isSome_iff]

/-- The checks of stage 4, on the ModRM byte `b`. -/
theorem takeModRM_eq_r84 (opc : Opcode) (b : Byte) (bs : List Byte) : takeModRM opc (b :: bs) =
    if b.extractLsb' 6 2 = 0b11#2 then .error .unsupported
    else if (opcodeNumber opc = 0xC6 ∨ opcodeNumber opc = 0xC7 ∨ opcodeNumber opc = 0xF6) ∧ b.extractLsb' 3 3 ≠ 0#3 then
      .error .invalidArgs
    else .ok (ModRM.ofByte b, bs) := by
  have hreg : opc.fixedReg = true ↔ opcodeNumber opc = 0xC6 ∨ opcodeNumber opc = 0xC7 ∨ opcodeNumber opc = 0xF6 := by
    cases opc <;> decide
  simp only [takeModRM, Bool.and_eq_true, bne_iff_ne, hreg]
  rfl

/-- `ndisp` of stage 6 after the SIB byte `b`. -/
theorem dispSize_sib_eq_r84 (mod : BitVec 2) {rm : BitVec 3} (hrm : rm = 0b100#3) (b : Byte) :
    dispSize mod rm ((some (Sib.ofByte b)).map Sib.base) =
      if mod = 0b01#2 then 1 else if mod = 0b10#2 then 4 else if b.extractLsb' 0 3 = 0b101#3 then 4 else 0 := by
  simp [dispSize, hrm, Sib.ofByte]

/-- `ndisp` of stage 6 without a SIB byte. -/
theorem dispSize_none_eq_r84 (mod : BitVec 2) (rm : BitVec 3) : dispSize mod rm none =
    if mod = 0b01#2 then 1 else if mod = 0b10#2 then 4 else if rm = 0b101#3 then 4 else 0 := by
  simp [dispSize]

/-- The checks of stage 3b. -/
theorem checkOpsize_eq_r84 (h66 : Bool) (opc : Opcode) : checkOpsize h66 opc =
    if h66 = true ∧ (opcodeNumber opc = 0xF6 ∨ opcodeNumber opc = 0x0FB7) then .error .badState
    else if h66 = true ∧ (opcodeNumber opc = 0x88 ∨ opcodeNumber opc = 0x8A ∨ opcodeNumber opc = 0xC6) then
      .error .unsupported
    else .ok () := by
  cases h66 <;> cases opc <;> rfl

theorem opcodeNumber_of_one_byte {op : Byte} (h : opcodeBytes opc = [op]) : opcodeNumber opc = op.toNat := by
  simp [opcodeNumber, h]

theorem opcodeNumber_of_two_bytes {op : Byte} (h : opcodeBytes opc = [0x0F#8, op]) :
    opcodeNumber opc = 0x0F00 + op.toNat := by
  simp [opcodeNumber, h]

/-- The one-byte opcodes that stage 3 accepts. -/
theorem one_byte_opcode_iff_r84 {op : Byte} : (∃ opc, opcodeBytes opc = [op]) ↔ op.toNat = 0x88 ∨ op.toNat = 0x89 ∨
    op.toNat = 0x8A ∨ op.toNat = 0x8B ∨ op.toNat = 0xC6 ∨ op.toNat = 0xC7 ∨ op.toNat = 0xF6 := by
  constructor
  · rintro ⟨opc, h⟩
    cases opc <;> cases h <;> decide
  · have hop : op = BitVec.ofNat 8 op.toNat := by simp
    rintro (h | h | h | h | h | h | h) <;> rw [h] at hop <;> subst hop
    exacts [⟨.op88, rfl⟩, ⟨.op89, rfl⟩, ⟨.op8A, rfl⟩, ⟨.op8B, rfl⟩, ⟨.opC6, rfl⟩, ⟨.opC7, rfl⟩, ⟨.opF6, rfl⟩]

/-- The bytes that stage 3 accepts after `0x0F`. -/
theorem two_byte_opcode_iff_r84 {op : Byte} :
    (∃ opc, opcodeBytes opc = [0x0F#8, op]) ↔ op.toNat = 0xB6 ∨ op.toNat = 0xB7 := by
  constructor
  · rintro ⟨opc, h⟩
    cases opc <;> cases h <;> decide
  · have hop : op = BitVec.ofNat 8 op.toNat := by simp
    rintro (h | h) <;> rw [h] at hop <;> subst hop
    exacts [⟨.op0FB6, rfl⟩, ⟨.op0FB7, rfl⟩]

theorem isRexByte_iff {b : Byte} : isRexByte b = true ↔ b.extractLsb' 4 4 = 0b0100#4 :=
  beq_iff_eq

theorem isRexByte_eq_false_iff {b : Byte} : isRexByte b = false ↔ b.extractLsb' 4 4 ≠ 0b0100#4 :=
  beq_eq_false_iff_ne

/-- The last check of stage 2. -/
theorem checkSizeConflict_eq_r84 (h66 : Bool) (rex : Option Rex) : checkSizeConflict h66 rex =
    if h66 = true ∧ (rexRaw rex).getLsbD 3 = true then .error .unsupported else .ok () := by
  simp only [rexRaw_w, checkSizeConflict, Bool.and_eq_true]

/-! ## Stage by stage -/

/-- Stages 7 and 8, from the cursor after the displacement. -/
theorem r84Stage7_eq (hq : q.len.toNat ≤ 15) (hp : p ≤ q.len.toNat) (h : prefixesAccepted h66 rex opc = true)
    (field : BitVec 3) (m : MemOperand) (hcursor : p = instLength h66 rex (opcodeBytes opc).length m 0) :
    r84Stage7 q h66 rex.isSome (rexRaw rex) (opcodeNumber opc) field p =
      recordStage7 h66 rex opc field m (q.bytes.drop p) := by
  have himm := takeImm_at_cursor hq hp (immSize_cases opc h66)
  simp only [r84Stage7, recordStage7, ← immSize_eq_r84, rexRaw_w, rexRaw_r, himm, needThen_bind, checkHighByte_eq_r84]
  refine needThen_congr fun hn => ?_
  rw [needThen, if_neg (Nat.not_lt.mpr hn)] at himm
  obtain ⟨v, -, hsize, hvalue⟩ := takeImm_eq_ok_iff.mp himm
  have hlength : p + immSize opc h66 = instLength h66 rex (opcodeBytes opc).length m (immSize opc h66) := by
    rw [hcursor]; rfl
  rw [hlength, ← hvalue, formR96_eq h field m hsize]
  split <;> rfl

/-- Stage 6, from the cursor after the SIB byte. -/
theorem r84Stage6_eq (hq : q.len.toNat ≤ 15) (hp : p ≤ q.len.toNat) (h : prefixesAccepted h66 rex opc = true)
    (modrm : ModRM) (sib : Option Sib)
    (hcursor : p = h66.toNat + rex.isSome.toNat + (opcodeBytes opc).length + 1 + sibSize modrm.mod modrm.rm)
    (hn : n = dispSize modrm.mod modrm.rm (sib.map Sib.base)) :
    needThen q (p + n) (r84Stage7 q h66 rex.isSome (rexRaw rex) (opcodeNumber opc) modrm.reg (p + n)) =
      (takeDisp n (q.bytes.drop p) >>= fun disp =>
        recordStage7 h66 rex opc modrm.reg ⟨modrm.mod, modrm.rm, sib, disp.1⟩ disp.2) := by
  obtain ⟨disp, hdisp⟩ := takeDisp_at_cursor hq hp (hn ▸ dispSize_cases modrm.mod modrm.rm (sib.map Sib.base))
  rw [hdisp, needThen_bind]
  exact needThen_congr fun hle =>
    r84Stage7_eq hq hle h modrm.reg ⟨modrm.mod, modrm.rm, sib, disp⟩ (by rw [hcursor, hn]; rfl)

/-- Stages 5 and 6, from the cursor after ModRM. -/
theorem r84Stage5_eq (hq : q.len.toNat ≤ 15) (hp : p ≤ q.len.toNat) (h : prefixesAccepted h66 rex opc = true)
    {modrm : ModRM} (hmod : modrm.mod ≠ 0b11#2)
    (hcursor : p = h66.toNat + rex.isSome.toNat + (opcodeBytes opc).length + 1) :
    r84Stage5 q h66 rex.isSome (rexRaw rex) (opcodeNumber opc) modrm.mod modrm.reg modrm.rm p =
      recordStage5 h66 rex opc modrm (q.bytes.drop p) := by
  by_cases hrm : modrm.rm = 0b100#3
  · rw [r84Stage5, if_pos hrm, recordStage5, takeSib_at_cursor hq hp hrm, needThen_bind]
    refine needThen_congr fun hle => ?_
    dsimp only
    rw [← dispSize_sib_eq_r84 modrm.mod hrm]
    exact r84Stage6_eq hq hle h modrm _ (by rw [hcursor, sibSize, if_pos ⟨hmod, hrm⟩]) rfl
  · rw [r84Stage5, if_neg hrm, recordStage5, takeSib_absent hrm, ← dispSize_none_eq_r84]
    exact r84Stage6_eq hq hp h modrm none (by rw [hcursor, sibSize, if_neg fun hsib => hrm hsib.2]) rfl

/-- Stage 4, from the cursor after the opcode. -/
theorem r84Stage4_eq (hq : q.len.toNat ≤ 15) (hp : p ≤ q.len.toNat) (h : prefixesAccepted h66 rex opc = true)
    (hcursor : p = h66.toNat + rex.isSome.toNat + (opcodeBytes opc).length) :
    r84Stage4 q h66 rex.isSome (rexRaw rex) (opcodeNumber opc) p = recordStage4 h66 rex opc (q.bytes.drop p) := by
  rw [r84Stage4, recordStage4, stage_at_cursor_one (f := takeModRM opc) hq hp rfl, needThen_bind, takeModRM_eq_r84]
  refine needThen_congr fun hle => ?_
  dsimp only
  split_ifs with hmod hreg
  · rfl
  · rfl
  · exact r84Stage5_eq (modrm := ModRM.ofByte (bufByte q p)) hq hle h hmod (by rw [hcursor])

/-- Stage 3b, once stage 2 has passed the prefixes. -/
theorem r84Stage3b_eq (hq : q.len.toNat ≤ 15) (hp : p ≤ q.len.toNat) (h : checkSizeConflict h66 rex = .ok ())
    (hcursor : p = h66.toNat + rex.isSome.toNat + (opcodeBytes opc).length) :
    r84Stage3b q h66 rex.isSome (rexRaw rex) (opcodeNumber opc) p =
      (checkOpsize h66 opc >>= fun _ => recordStage4 h66 rex opc (q.bytes.drop p)) := by
  have hsize := checkOpsize_eq_r84 h66 opc
  unfold r84Stage3b
  split_ifs at hsize ⊢
  · rw [hsize]; rfl
  · rw [hsize]; rfl
  · rw [r84Stage4_eq hq hp (prefixesAccepted_iff.mpr ⟨h, hsize⟩) hcursor, hsize]
    rfl

/-- Stages 3 and 3b, with the opcode byte at the cursor. -/
theorem r84Stage3_eq (hq : q.len.toNat ≤ 15) (hp : p + 1 ≤ q.len.toNat) (h : checkSizeConflict h66 rex = .ok ())
    (hcursor : p = h66.toNat + rex.isSome.toNat) :
    r84Stage3 q h66 rex.isSome (rexRaw rex) p = recordStage3 h66 rex (bufByte q p) (q.bytes.drop (p + 1)) := by
  unfold r84Stage3 recordStage3
  by_cases hescape : (bufByte q p).toNat = 0x0F
  · have hbyte : bufByte q p = 0x0F#8 := BitVec.eq_of_toNat_eq hescape
    rw [if_pos hescape, hbyte, stage_at_cursor_one (f := takeOpcode 0x0F#8) hq hp rfl, needThen_bind]
    refine needThen_congr fun hle => ?_
    by_cases hmap : ∃ opc, opcodeBytes opc = [0x0F#8, bufByte q (p + 1)]
    · have hmap' := two_byte_opcode_iff_r84.mp hmap
      obtain ⟨opc, hopc⟩ := hmap
      rw [if_neg (by omega), ← opcodeNumber_of_two_bytes hopc, takeOpcode_eq_ok_iff.mpr (by rw [hopc]; rfl)]
      exact r84Stage3b_eq hq hle h (by rw [hcursor, hopc]; rfl)
    · rw [two_byte_opcode_iff_r84, not_or] at hmap
      rw [if_pos hmap, takeOpcode_escape_other (by simpa [← BitVec.toNat_inj] using hmap)]
      rfl
  · rw [if_neg hescape]
    by_cases hmap : ∃ opc, opcodeBytes opc = [bufByte q p]
    · rw [if_pos (one_byte_opcode_iff_r84.mp hmap)]
      obtain ⟨opc, hopc⟩ := hmap
      rw [← opcodeNumber_of_one_byte hopc, takeOpcode_eq_ok_iff.mpr (by rw [hopc]; rfl)]
      exact r84Stage3b_eq hq hp h (by rw [hcursor, hopc]; rfl)
    · rw [one_byte_opcode_iff_r84] at hmap
      rw [if_neg hmap, takeOpcode_other (by simp [← BitVec.toNat_inj]; omega)]
      rfl

/-- The last check of stage 2 and what follows, with the opcode byte at the cursor. -/
theorem r84SizeConflict_eq (hq : q.len.toNat ≤ 15) (hp : p + 1 ≤ q.len.toNat) (rex : Option Rex)
    (hcursor : p = h66.toNat + rex.isSome.toNat) :
    (if h66 = true ∧ (rexRaw rex).getLsbD 3 = true then .error .unsupported
      else r84Stage3 q h66 rex.isSome (rexRaw rex) p) =
      (checkSizeConflict h66 rex >>= fun _ => recordStage3 h66 rex (bufByte q p) (q.bytes.drop (p + 1))) := by
  have hconflict := checkSizeConflict_eq_r84 h66 rex
  split_ifs at hconflict ⊢
  · rw [hconflict]; rfl
  · rw [hconflict, r84Stage3_eq hq hp hconflict hcursor]; rfl

/-- Stage 2, from the cursor after `0x66`. -/
theorem r84Stage2_eq (hq : q.len.toNat ≤ 15) (hp : p ≤ q.len.toNat) (hcursor : p = h66.toNat) :
    r84Stage2 q h66 p = recordStage2 h66 (q.bytes.drop p) := by
  rw [r84Stage2, recordStage2, stage_at_cursor_one (f := takeRex) hq hp rfl, needThen_bind]
  refine needThen_congr fun hle => ?_
  cases hrex : isRexByte (bufByte q p) with
  | false =>
    rw [if_neg (isRexByte_eq_false_iff.mp hrex), takeRex_none hrex]
    exact (if_neg (by simp [rexRaw])).symm.trans (r84SizeConflict_eq hq hle none hcursor)
  | true =>
    obtain ⟨x, hx⟩ : ∃ x : Rex, bufByte q p = x.toByte := ⟨_, (rex_toByte_ofByte hrex).symm⟩
    rw [if_pos (isRexByte_iff.mp hrex), hx, stage_at_cursor_one (f := fun bs => takeRex (x.toByte :: bs)) hq hle
      (takeRex_rex_nil x), needThen_bind]
    refine needThen_congr fun hle => ?_
    cases hop : isRexByte (bufByte q (p + 1)) with
    | true =>
      rw [if_pos (isRexByte_iff.mp hop), takeRex_rex_rex x hop]
      rfl
    | false =>
      rw [if_neg (isRexByte_eq_false_iff.mp hop), takeRex_some x hop]
      exact r84SizeConflict_eq hq hle (some x) (by rw [hcursor]; rfl)

/-- Stages 1 and 2 of a valid call. -/
theorem decodeR84_of_validCall (h : validCall q) :
    decodeR84 q = recordStage2 (takeOpsize q.bytes).1 (takeOpsize q.bytes).2 := by
  obtain ⟨hpresent, hpos, hq⟩ := h
  have hbytes : q.bytes = bufByte q 0 :: q.bytes.drop 1 := drop_bytes (p := 0) (n := 1) hq hpos
  rw [decodeR84, if_neg (by simp [hpresent]; omega), if_neg (Nat.not_lt.mpr hq), hbytes]
  split
  next hprefix =>
    rw [hprefix]
    exact r84Stage2_eq hq hpos rfl
  next hprefix =>
    rw [takeOpsize_false hprefix, ← hbytes]
    exact r84Stage2_eq hq (Nat.zero_le _) rfl

/-- Settles O3: past the call validation, which both do alike, R84 from its cursor is the machine's stages on the bytes
after it. -/
theorem responseIsAlgorithmR84 : Obligations.ResponseIsAlgorithmR84 := by
  intro q
  by_cases hcall : q.present = false ∨ q.len = 0
  · have hcall' : q.present = false ∨ q.len.toNat = 0 := hcall.imp_right fun hlen => by rw [hlen]; rfl
    rw [respond, decodeRequest, if_pos hcall, decodeR84, if_pos hcall']
    rfl
  · have hcall' : ¬(q.present = false ∨ q.len.toNat = 0) := fun h => hcall (h.imp_right BitVec.eq_of_toNat_eq)
    by_cases hlen : q.len.toNat > 15
    · rw [respond, decodeRequest, if_neg hcall, if_pos hlen, decodeR84, if_neg hcall', if_pos hlen]
      rfl
    · obtain ⟨hpresent, hpos⟩ := not_or.mp hcall
      have hvalid : validCall q :=
        ⟨Bool.eq_true_of_not_eq_false hpresent, one_le_len_iff.mpr hpos, Nat.le_of_not_lt hlen⟩
      rw [respond_of_validCall hvalid, decodeR84_of_validCall hvalid]

end Sys2Proof.Machine
end

/-! # The loads

What a load of any size leaves behind, and the value that the register then holds. -/

section
namespace Sys2Proof.Machine

variable {n d : Size} {q : Reg} {v mask : Word} {len : Nat} {s : State}

/-- A write of an 8- or 16-bit view takes the new bits below its width and keeps the old ones above it
(45_reference_consumer.md R133). -/
theorem getLsbD_mergeView_narrow (hn : sizeBytes n ≤ 2) (old v : Word) {k : Nat} (hk : k < 64) :
    (mergeView n old v).getLsbD k = if k < 8 * sizeBytes n then v.getLsbD k else old.getLsbD k := by
  cases n with
  | b1 | b2 =>
    rw [mergeView, BitVec.getLsbD_append, BitVec.getLsbD_setWidth, BitVec.getLsbD_extractLsb']
    split
    next hlow => simp [sizeBytes, hlow]
    next hhigh =>
      have hle := Nat.le_of_not_lt hhigh
      simp [sizeBytes, hhigh, Nat.add_sub_cancel' hle, Nat.sub_lt_iff_lt_add hle, hk]
  | b4 | b8 => exact absurd hn (by decide)

/-- The write of a narrow view by its mask, the ones at and above its width. -/
theorem mergeView_narrow_eq_mask (hn : sizeBytes n ≤ 2)
    (hmask : ∀ k < 64, mask.getLsbD k = !decide (k < 8 * sizeBytes n)) (old v : Word) :
    mergeView n old v = (old &&& mask) ||| lowBytes n v := by
  refine BitVec.eq_of_getLsbD_eq fun k hk => ?_
  rw [getLsbD_mergeView_narrow hn _ _ hk, BitVec.getLsbD_or, BitVec.getLsbD_and, hmask k hk, getLsbD_lowBytes]
  by_cases hlow : k < 8 * sizeBytes n <;> simp [hlow]

theorem mergeView_b1 (old v : Word) : mergeView .b1 old v = (old &&& 0xFFFFFFFFFFFFFF00) ||| lowBytes .b1 v :=
  mergeView_narrow_eq_mask (by decide) (by decide) old v

theorem mergeView_b2 (old v : Word) : mergeView .b2 old v = (old &&& 0xFFFFFFFFFFFF0000) ||| lowBytes .b2 v :=
  mergeView_narrow_eq_mask (by decide) (by decide) old v

/-- A served load completes, and its whole effect is the merged view in the register, the access in the trace and `rip` past
the instruction (45_reference_consumer.md R136). -/
theorem emulateRead_completes (hv : mergeView d (getGpr q s) (deviceAnswer n s) = v) (h : accessServed n s = true) :
    ∃ t, emulateRead n d q len s = .next t ∧ LoadEffect n q v len s t :=
  ⟨_, emulateRead_served h,
    { dest := by simp [getGpr_writeReg, hv]
      others := fun g hg => by simp [getGpr_writeReg, hg]
      memory := fun _ => rfl
      trace := rfl
      rflags := rfl
      rip := rfl
      inputs := ⟨rfl, rfl, rfl, rfl, rfl, rfl⟩ }⟩

/-- Settles O34: each form is a load whose register view has the size of its access, and the device's answer fits it. -/
theorem loadsWriteTheRegisterView : Obligations.LoadsWriteTheRegisterView := by
  intro rex reg m s
  refine ⟨emulateRead_completes ?byte, emulateRead_completes ?word, emulateRead_completes ?long,
    emulateRead_completes ?quad⟩
  case byte => rw [mergeView_b1, lowBytes_deviceAnswer]
  case word => rw [mergeView_b2, lowBytes_deviceAnswer]
  case long => exact lowBytes_deviceAnswer .b4 s
  case quad => rfl

end Sys2Proof.Machine
end

/-! # The zero-extending loads

A value that fits the source's width fits every wider view, so extending it adds only zeros. -/

section
namespace Sys2Proof.Machine

variable {n d : Size} {q : Reg} {len : Nat} {s : State}

/-- A value that fits a size fits every size at least as wide (10_state.md R20). -/
theorem lowBytes_eq_self_of_le (hle : sizeBytes n ≤ sizeBytes d) {v : Word} (hv : lowBytes n v = v) :
    lowBytes d v = v := by
  refine BitVec.eq_of_getLsbD_eq fun k _ => ?_
  rw [← hv, getLsbD_lowBytes, getLsbD_lowBytes]
  by_cases hlow : k < 8 * sizeBytes n
  · have hwide : k < 8 * sizeBytes d := hlow.trans_le (Nat.mul_le_mul_left 8 hle)
    simp [hwide]
  · simp [hlow]

/-- A write of a 32- or 64-bit view keeps no bit of the old register (45_reference_consumer.md R133). -/
theorem mergeView_wide (hd : 4 ≤ sizeBytes d) (old v : Word) : mergeView d old v = lowBytes d v := by
  cases d with
  | b1 | b2 => exact absurd hd (by decide)
  | b4 | b8 => rfl

/-- A served load into a 32- or 64-bit view at least as wide as its access leaves the device's answer in the register, zero
above the access (42_movzx.md R113 to R116). -/
theorem emulateRead_completes_of_wide (hd : 4 ≤ sizeBytes d) (hle : sizeBytes n ≤ sizeBytes d)
    (h : accessServed n s = true) :
    ∃ t, emulateRead n d q len s = .next t ∧ LoadEffect n q (deviceAnswer n s) len s t :=
  emulateRead_completes
    ((mergeView_wide hd _ _).trans (lowBytes_eq_self_of_le hle (lowBytes_deviceAnswer n s))) h

/-- Settles O35: `movzbw` is a load into the 16-bit view, the other four into a 32- or 64-bit view, and the device's answer
fits each of them. -/
theorem zeroExtendingLoadsClearUpperBits : Obligations.ZeroExtendingLoadsClearUpperBits := by
  intro rex reg m s
  have hfits : lowBytes .b2 (deviceAnswer .b1 s) = deviceAnswer .b1 s :=
    lowBytes_eq_self_of_le (by decide) (lowBytes_deviceAnswer .b1 s)
  have hmovzbw : mergeView .b2 (getGpr reg s) (deviceAnswer .b1 s) =
      (getGpr reg s &&& 0xFFFFFFFFFFFF0000) ||| deviceAnswer .b1 s := by
    rw [mergeView_b2, hfits]
  exact ⟨emulateRead_completes hmovzbw,
    emulateRead_completes_of_wide (d := .b4) (by decide) (by decide),
    emulateRead_completes_of_wide (d := .b8) (by decide) (by decide),
    emulateRead_completes_of_wide (d := .b4) (by decide) (by decide),
    emulateRead_completes_of_wide (d := .b8) (by decide) (by decide)⟩

end Sys2Proof.Machine
end

/-! # The flags of a test, and `testb`

`flagsWord` puts each flag at its own bit, and `TEST8FLAGS` is a function of the AND of its operands. What `testb` does then
follows from what a served test leaves behind. -/

section
namespace Sys2Proof.Machine

/-! ## The flags word -/

/-- One flag moved to its bit of the flags register. -/
theorem getLsbD_flag_shiftLeft (f : Bool) {k : Nat} (hk : k < 64) (i : Nat) :
    ((BitVec.ofBool f).setWidth 64 <<< k).getLsbD i = (decide (i = k) && f) := by
  rw [BitVec.getLsbD_shiftLeft, BitVec.getLsbD_setWidth, BitVec.getLsbD_ofBool]
  by_cases hi : i = k
  · simp [hi, hk]
  · have hne : i < k ∨ i - k ≠ 0 := by omega
    rcases hne with hlt | hsub
    · simp [hi, hlt]
    · simp [hi, hsub]

/-- The bits of the flags register, each flag at its own and bit 1 set (10_state.md R23). -/
theorem getLsbD_flagsWord (sf zf af pf cf of : Bool) (i : Nat) :
    (flagsWord sf zf af pf cf of).getLsbD i =
      (decide (i = 7) && sf || decide (i = 6) && zf || decide (i = 4) && af || decide (i = 2) && pf ||
        decide (i = 1) || decide (i = 0) && cf || decide (i = 11) && of) := by
  have hone : (1#64 <<< 1).getLsbD i = decide (i = 1) :=
    (getLsbD_flag_shiftLeft true (by decide) i).trans (Bool.and_true _)
  have hcarry : ((BitVec.ofBool cf).setWidth 64).getLsbD i = (decide (i = 0) && cf) := by
    simpa using getLsbD_flag_shiftLeft cf (k := 0) (by decide) i
  simp only [flagsWord, BitVec.getLsbD_or, hone, hcarry, getLsbD_flag_shiftLeft, Nat.reduceLT]

/-- The sum over the eight bits counts the ones among them (43_test.md R122). -/
theorem popcount8_eq_countP (r : Byte) : popcount8 r = (List.range 8).countP fun k => r.getLsbD k := by
  have hcount : ∀ (k : Nat) (ks : List Nat),
      (k :: ks).countP (fun k => r.getLsbD k) = ks.countP (fun k => r.getLsbD k) + (r.getLsbD k).toNat := by
    intro k ks
    rw [List.countP_cons]
    cases r.getLsbD k <;> rfl
  rw [show List.range 8 = [0, 1, 2, 3, 4, 5, 6, 7] from rfl]
  simp only [hcount, List.countP_nil, popcount8]
  omega

/-! ## `TEST8FLAGS` -/

variable {a b : Byte}

/-- Settles O22: each bit of the flags word, with CF, OF and AF clear. -/
theorem test8FlagsBits : Obligations.Test8FlagsBits := by
  intro a b i
  rw [test8flags, getLsbD_flagsWord]
  split_ifs with hreserved hparity hzero hsign
  · simp [hreserved]
  · simp [hparity, parityFlag, popcount8_eq_countP, beq_eq_decide]
  · simp [hzero, zeroFlag, beq_eq_decide]
  · simp [hsign, signFlag]
  · simp [hreserved, hparity, hzero, hsign]

/-- A zero result has an even number of ones and a clear sign bit (43_test.md R120 to R122). -/
theorem test8flags_of_and_eq_zero (h : a &&& b = 0#8) : test8flags a b = 0x46#64 := by
  rw [test8flags, h]
  rfl

/-- A result that is not zero leaves the sign and the parity free (43_test.md R120). -/
theorem test8flags_of_and_ne_zero (h : a &&& b ≠ 0#8) :
    test8flags a b = flagsWord (signFlag (a &&& b)) false false (parityFlag (a &&& b)) false false := by
  rw [test8flags, zeroFlag, beq_eq_false_iff_ne.mpr h]

/-- Settles O23: one value where the result is zero, and one for each sign and parity where it is not. -/
theorem test8FlagsTakesFiveValues : Obligations.Test8FlagsTakesFiveValues := by
  intro a b
  by_cases hzero : a &&& b = 0#8
  · rw [test8flags_of_and_eq_zero hzero]
    decide
  · rw [test8flags_of_and_ne_zero hzero]
    cases signFlag (a &&& b) <;> cases parityFlag (a &&& b) <;> decide

/-- The flags are those of the AND, which is symmetric (43_test.md R127). -/
theorem test8flags_comm (a b : Byte) : test8flags a b = test8flags b a := by
  rw [test8flags, test8flags, BitVec.and_comm]

/-- Settles O24: the symmetry of the AND, and the five vectors evaluated. -/
theorem test8FlagsVectorsAndSymmetry : Obligations.Test8FlagsVectorsAndSymmetry :=
  ⟨test8flags_comm, by decide, by decide, by decide, by decide, by decide⟩

/-! ## `testb` -/

variable {imm : Word} {len : Nat} {s : State}

/-- Byte 0 of a value is its low 8 bits. -/
theorem byteOf_zero (v : Word) : byteOf v 0 = v.setWidth 8 :=
  (BitVec.setWidth_eq_extractLsb' (by decide)).symm

theorem byteOf_zero_setWidth (b : Byte) : byteOf (b.setWidth 64) 0 = b := by
  rw [byteOf_zero, BitVec.setWidth_setWidth_of_le b (by decide), BitVec.setWidth_eq]

/-- A served test completes, and its whole effect is the merged flags, the access in the trace and `rip` past the instruction
(45_reference_consumer.md R137, R138). -/
theorem emulateTest_completes (h : accessServed .b1 s = true) :
    ∃ t, emulateTest imm len s = .next t ∧
      TestEffect (mergeFlags s.rflags (test8flags (byteOf (deviceAnswer .b1 s) 0) (byteOf imm 0))) len s t :=
  ⟨_, emulateTest_served h,
    { rflags := by simp [byteOf_zero]
      gpr := fun _ => rfl
      memory := fun _ => rfl
      trace := rfl
      rip := rfl
      inputs := ⟨rfl, rfl, rfl, rfl, rfl, rfl⟩ }⟩

/-- Settles O36: `testb` is the test with its immediate zero-extended. -/
theorem testMergesFlagsOfAnd : Obligations.TestMergesFlagsOfAnd := by
  intro rex m imm s hserved
  have hcompletes := emulateTest_completes (imm := imm.setWidth 64) (len := (Instr.testM8I8 rex m imm).length) hserved
  rwa [byteOf_zero_setWidth] at hcompletes

end Sys2Proof.Machine
end

/-! # The reference consumer's step

The step on a request is the response of the FTDU applied or taken, and what an applied record leaves unchanged holds of
every step. -/

section
namespace Sys2Proof.Machine

variable {s t : State} {tr : Trap} {r : Record} {x : Response Record} {e : Failure}

/-! ## The pending response -/

/-- A response is pending exactly when the consumer has not halted, and then it is that to the next request
(45_reference_consumer.md R130). -/
theorem pendingResponse_eq_some_iff : pendingResponse s = some x ↔
    s.halted = none ∧ ∃ tr rest, s.traps = tr :: rest ∧ respond (requestOf s tr) = x := by
  unfold pendingResponse
  cases s.halted with
  | some e => simp
  | none => cases s.traps <;> simp

theorem pendingResponse_of_traps_nil (ht : s.traps = []) : pendingResponse s = none := by
  cases hh : s.halted <;> simp [pendingResponse, hh, ht]

/-- A pending failure is taken (45_reference_consumer.md R141), and its request with it. -/
theorem step_of_pending_error (h : pendingResponse s = some (.error e)) :
    ∃ tr rest, step s = .next (takeFailure e (beginTrap tr rest s)) := by
  obtain ⟨hh, tr, rest, ht, hresp⟩ := pendingResponse_eq_some_iff.mp h
  refine ⟨tr, rest, ?_⟩
  rw [step_of_request hh ht]
  exact serve_of_respond_error (s := beginTrap tr rest s) hresp

/-- A step under a pending record applies it, with the request in service. -/
theorem applied_of_pending_ok (hr : pendingResponse s = some (.ok r)) (h : step s = .next t) :
    ∃ tr rest, s.traps = tr :: rest ∧ Applied r (beginTrap tr rest s) t := by
  cases stepCase_of_step h with
  | idle _ traps => rw [pendingResponse_of_traps_nil traps] at hr; cases hr
  | failed tr rest e _ response => rw [response] at hr; cases hr
  | applied tr rest r' _ traps response effect =>
    rw [response] at hr
    cases hr
    exact ⟨tr, rest, traps, effect⟩

/-! ## The step on a request -/

/-- Serving a request is `EMULATE`, since the decoder is the algorithm of 40_decoder.md R84. -/
theorem serve_eq_emulateR130 (s : State) (tr : Trap) : serve s tr = emulateR130 s tr := by
  rw [emulateR130, ← responseIsAlgorithmR84]
  cases h : respond (requestOf s tr) with
  | error e => exact serve_of_respond_error h
  | ok r => exact serve_of_respond_ok h

/-- Settles O39: a halted consumer's step, and serving as `EMULATE`. -/
theorem stepIsEmulate : Obligations.StepIsEmulate := by
  refine ⟨fun s e hh => step_of_halted hh, fun s tr rest hh ht => ?_⟩
  rw [step_of_request hh ht, serve_eq_emulateR130]

/-- Settles O37: the arms of the dispatch against the rows of 40_decoder.md R96. -/
theorem meaningAppliesRecord : Obligations.MeaningAppliesRecord :=
  exec_eq_applyRecord

/-- Settles O38: a valid call is decoded from its bytes, and the request in service leaves them as they are. -/
theorem stepRunsDecodedInstruction : Obligations.StepRunsDecodedInstruction := by
  intro s tr rest i hh ht hcall hdecode
  have hdecoded : decodeRequest (requestOf (beginTrap tr rest s) tr) = .ok i :=
    (decodeRequest_of_validCall hcall).trans hdecode
  rw [step_of_request hh ht, serve, hdecoded]

/-- Settles O40: the failure taken sets `halted` and nothing else of the consumer, and a halted consumer takes no step. -/
theorem failureHaltsTheConsumer : Obligations.FailureHaltsTheConsumer := by
  intro s e h
  obtain ⟨tr, rest, hstep⟩ := step_of_pending_error h
  exact ⟨_, hstep, rfl, rfl, rfl, rfl, rfl, rfl, step_of_halted rfl⟩

/-! ## What an applied record does to `rip`, the flags and the inputs -/

/-- `rip` moves past the instruction (45_reference_consumer.md R131). -/
theorem rip_of_applied (h : Applied r s t) : t.rip = s.rip + BitVec.ofNat 64 r.length := by
  cases h <;> rfl

theorem inputsKept_of_applied (h : Applied r s t) : InputsKept s t := by
  cases h <;> exact ⟨rfl, rfl, rfl, rfl, rfl, rfl⟩

/-- Only a TEST merges flags (45_reference_consumer.md R134, R136). -/
theorem rflags_of_applied (h : Applied r s t) (htype : r.type ≠ .test) : t.rflags = s.rflags := by
  cases h with
  | stored | loaded => rfl
  | tested type => exact absurd type htype

theorem getLsbD_statusMask : ∀ k < 64, statusMask.getLsbD k = decide (k ∈ [0, 2, 4, 6, 7, 11]) := by
  decide

/-- `MERGE` bit by bit: the six status flags are those of the mask (45_reference_consumer.md R138). -/
theorem getLsbD_mergeFlags (old f : Word) {k : Nat} (hk : k < 64) :
    (mergeFlags old f).getLsbD k = if k ∈ [0, 2, 4, 6, 7, 11] then f.getLsbD k else old.getLsbD k := by
  rw [mergeFlags, BitVec.getLsbD_or, BitVec.getLsbD_and, BitVec.getLsbD_and, BitVec.getLsbD_not, getLsbD_statusMask k hk]
  split
  next hstatus => simp [hstatus]
  next hkept => simp [hkept, hk]

/-- Settles O25, by the bits of the mask. -/
theorem mergeReplacesStatusFlagsOnly : Obligations.MergeReplacesStatusFlagsOnly :=
  fun old f _ hk => getLsbD_mergeFlags old f hk

/-- No record changes a bit outside the status flags (45_reference_consumer.md R138). -/
theorem getLsbD_rflags_of_applied (h : Applied r s t) {k : Nat} (hk : k < 64) (hkept : k ∉ [0, 2, 4, 6, 7, 11]) :
    t.rflags.getLsbD k = s.rflags.getLsbD k := by
  cases h with
  | stored | loaded => rfl
  | tested => exact (getLsbD_mergeFlags _ _ hk).trans (if_neg hkept)

/-! ## What a step does to them -/

/-- Settles O42: a step under a record applies it, and one under a failure or none leaves `rip` alone. -/
theorem ripAdvancesByConsumedLength : Obligations.RipAdvancesByConsumedLength := by
  constructor
  · intro s t r hr h
    obtain ⟨tr, rest, -, effect⟩ := applied_of_pending_ok hr h
    rw [rip_of_applied effect, BitVec.toNat_add, BitVec.toNat_ofNat, Nat.add_mod_mod, beginTrap_rip]
  · intro s t hno h
    cases stepCase_of_step h with
    | idle | failed => rfl
    | applied tr rest r _ _ response => exact absurd response (hno r)

/-- Settles O43, by cases on what the step can be. -/
theorem onlyTestChangesFlags : Obligations.OnlyTestChangesFlags := by
  intro s t h
  cases stepCase_of_step h with
  | idle | failed => exact ⟨fun _ _ _ => rfl, fun _ => rfl⟩
  | applied tr rest r _ _ response effect =>
    exact ⟨fun k hk hkept => getLsbD_rflags_of_applied effect hk hkept,
      fun hno => (rflags_of_applied effect (hno r response)).trans rfl⟩

/-- Settles O46, by cases on what the step can be. -/
theorem stepKeepsCodeAndParameters : Obligations.StepKeepsCodeAndParameters := by
  intro s t h
  cases stepCase_of_step h with
  | idle _ traps => exact ⟨rfl, rfl, rfl, by rw [traps]; rfl⟩
  | failed tr rest e traps => exact ⟨rfl, rfl, rfl, by rw [traps]; rfl⟩
  | applied tr rest r _ traps _ effect =>
    have hkept := inputsKept_of_applied effect
    exact ⟨hkept.code, hkept.kind, hkept.misaligned, by rw [hkept.traps, traps]; rfl⟩

end Sys2Proof.Machine
end

/-! # The register views -/

section
namespace Sys2Proof.Machine

/-- Settles O26: the view of a register is that of its value. -/
theorem readViewIsLowBits : Obligations.ReadViewIsLowBits :=
  fun _ n _ => getLsbD_lowBytes n _

/-- Settles O27: the 8- and 16-bit views merge, the 32- and 64-bit views hold the low bits of the value alone. -/
theorem writeViewMergesOrExtends : Obligations.WriteViewMergesOrExtends := by
  constructor
  · intro r v s k hk
    simp only [getGpr_writeReg, if_true]
    refine ⟨getLsbD_mergeView_narrow (by decide) _ _ hk, getLsbD_mergeView_narrow (by decide) _ _ hk, ?long, rfl⟩
    rw [mergeView_wide (by decide), getLsbD_lowBytes]
    by_cases hlow : k < 32 <;> simp [sizeBytes, hlow]
  · exact fun r n v s => ⟨fun q hq => by rw [getGpr_writeReg, if_neg hq], rfl⟩

end Sys2Proof.Machine
end

/-! # The bytes of a device access

A value is its eight bytes. Those of a read are the device's, and those of a store are the value's, so a store effect and the
read after it are both told byte by byte. -/

section
namespace Sys2Proof.Machine

variable {n : Size} {v w : Word} {len : Nat} {s : State}

/-! ## The bytes of a value -/

theorem getLsbD_byteOf (v : Word) (k j : Nat) :
    (byteOf v k).getLsbD j = (decide (j < 8) && v.getLsbD (8 * k + j)) :=
  BitVec.getLsbD_extractLsb' ..

theorem eq_of_byteOf_eq (h : ∀ k < 8, byteOf v k = byteOf w k) : v = w := by
  refine BitVec.eq_of_getLsbD_eq fun i hi => ?_
  have hbyte := congrArg (BitVec.getLsbD · (i % 8)) (h (i / 8) (by omega))
  simpa only [getLsbD_byteOf, Nat.mod_lt i (by decide : 8 > 0), decide_true, Bool.true_and, Nat.div_add_mod] using hbyte

/-- A narrow view keeps the bytes below its size and clears the others (10_state.md R20). -/
theorem byteOf_lowBytes (n : Size) (v : Word) (k : Nat) :
    byteOf (lowBytes n v) k = if k < sizeBytes n then byteOf v k else 0#8 := by
  refine BitVec.eq_of_getLsbD_eq fun j hj => ?_
  rw [getLsbD_byteOf, getLsbD_lowBytes]
  split
  next hlow =>
    have hbit : 8 * k + j < 8 * sizeBytes n := by omega
    rw [getLsbD_byteOf, decide_eq_true hbit, Bool.true_and]
  next hhigh =>
    have hbit : ¬ 8 * k + j < 8 * sizeBytes n := by omega
    rw [decide_eq_false hbit, Bool.false_and, Bool.and_false, BitVec.getLsbD_zero]

/-- Values with the same narrow view have the same bytes in it. -/
theorem byteOf_eq_of_lowBytes_eq (h : lowBytes n v = lowBytes n w) {k : Nat} (hk : k < sizeBytes n) :
    byteOf v k = byteOf w k := by
  simpa only [byteOf_lowBytes, if_pos hk] using congrArg (byteOf · k) h

/-! ## The bytes of a read -/

theorem add_ofNat_succ (a : Addr) (k : Nat) : a + BitVec.ofNat 64 (k + 1) = a + 1 + BitVec.ofNat 64 k := by
  rw [Nat.add_comm, BitVec.ofNat_add, ← BitVec.add_assoc]
  rfl

theorem byteOf_shift_or_zero (v : Word) (b : Byte) : byteOf ((v <<< 8) ||| b.setWidth 64) 0 = b := by
  refine BitVec.eq_of_getLsbD_eq fun j hj => ?_
  simp only [getLsbD_byteOf, BitVec.getLsbD_or, BitVec.getLsbD_shiftLeft, BitVec.getLsbD_setWidth]
  simp [hj, hj.trans (by decide : 8 < 64)]

theorem byteOf_shift_or_succ (v : Word) (b : Byte) {k : Nat} (hk : k + 1 < 8) :
    byteOf ((v <<< 8) ||| b.setWidth 64) (k + 1) = byteOf v k := by
  refine BitVec.eq_of_getLsbD_eq fun j hj => ?_
  have hlt : 8 * (k + 1) + j < 64 := by omega
  have hge : 8 ≤ 8 * (k + 1) + j := by omega
  have hsub : 8 * (k + 1) + j - 8 = 8 * k + j := by omega
  simp only [getLsbD_byteOf, BitVec.getLsbD_or, BitVec.getLsbD_shiftLeft, BitVec.getLsbD_setWidth,
    BitVec.getLsbD_of_ge b _ hge, hsub]
  simp [hlt, Nat.not_lt.mpr hge]

/-- Byte `k` of an `n`-byte read is the byte at `a + k`, modulo 2^64 (20_memory.md R41, log 12). -/
theorem byteOf_readBytes (n : Nat) (a : Addr) (m : Memory) {k : Nat} (hk : k < 8) :
    byteOf (readBytes n a m) k = if k < n then readByte m (a + BitVec.ofNat 64 k).toNat else 0#8 := by
  induction n generalizing a k with
  | zero => simp [readBytes, byteOf]
  | succ n ih =>
    cases k with
    | zero => simp [readBytes, byteOf_shift_or_zero]
    | succ k =>
      rw [readBytes, byteOf_shift_or_succ _ _ hk, ih (a + 1) (by omega), add_ofNat_succ]
      simp only [Nat.add_lt_add_iff_right]

theorem deviceAnswer_of_ram (hkind : s.dev.kind = .ram) (n : Size) :
    deviceAnswer n s = readBytes (sizeBytes n) s.trap.fa s.dev.cells := by
  simp only [deviceAnswer, hkind]

/-- Settles O28, by the bytes of a read. -/
theorem ramReadIsLittleEndian : Obligations.RamReadIsLittleEndian := by
  intro n s hkind k hk
  rw [deviceAnswer_of_ram hkind]
  exact byteOf_readBytes _ _ _ hk

/-! ## The bytes of a store -/

theorem sizeBytes_le (n : Size) : sizeBytes n ≤ 8 := by
  cases n <;> decide

/-- A store puts byte `k` of the value at `fa + k` (45_reference_consumer.md R139). -/
theorem devByte_deviceStore (hwf : Memory.wf s.dev.cells = true) {k : Nat} (hk : k < sizeBytes n) :
    devByte (deviceStore n v s) (accessAddr s k) = byteOf v k :=
  readByte_writeBytes_byte _ _ _ hwf ((sizeBytes_le n).trans_lt (by decide)) k hk

/-- Settles O29: the read and the low bytes of the value agree byte by byte. -/
theorem ramReadsBackLastWrite : Obligations.RamReadsBackLastWrite := by
  intro n v s hwf hkind
  refine eq_of_byteOf_eq fun k hk => ?_
  rw [ramReadIsLittleEndian n (deviceStore n v s) hkind k hk, byteOf_lowBytes]
  split
  next hlow => exact devByte_deviceStore hwf hlow
  next => rfl

/-- A served store completes, and its whole effect is the stored bytes, the access in the trace and `rip` past the
instruction (45_reference_consumer.md R134, R135); only the low bytes of what is sent count. -/
theorem emulateWrite_completes (hv : lowBytes n v = lowBytes n w) (hwf : Memory.wf s.dev.cells = true)
    (h : accessServed n s = true) : ∃ t, emulateWrite n v len s = .next t ∧ StoreEffect n w len s t :=
  ⟨_, emulateWrite_served h,
    { stored := fun _ hk => (devByte_deviceStore hwf hk).trans (byteOf_eq_of_lowBytes_eq hv hk)
      elsewhere := fun _ ha => devByte_deviceStore_other hwf ha
      trace := by simp [hv]
      gpr := fun _ => rfl
      rflags := rfl
      rip := rfl
      inputs := ⟨rfl, rfl, rfl, rfl, rfl, rfl⟩ }⟩

/-- Settles O32: each form is a store of its register's view, which has the low bytes of the register. -/
theorem registerStoresWriteLowBytes : Obligations.RegisterStoresWriteLowBytes := by
  intro rex reg m s hwf
  have hview (n : Size) : lowBytes n (readReg reg n s) = lowBytes n (getGpr reg s) := lowBytes_lowBytes n _
  exact ⟨emulateWrite_completes (hview .b1) hwf, emulateWrite_completes (hview .b2) hwf,
    emulateWrite_completes (hview .b4) hwf, emulateWrite_completes (hview .b8) hwf⟩

/-- Up to 4 bytes, what an immediate store sends is the low bytes of the immediate (45_reference_consumer.md R135). -/
theorem immVal_narrow (hn : sizeBytes n ≤ 4) (imm : Word) : immVal imm n = lowBytes n imm := by
  cases n with
  | b1 | b2 | b4 => rfl
  | b8 => exact absurd hn (by decide)

/-- A `movq` sends its 32-bit immediate sign-extended (45_reference_consumer.md R135). -/
theorem immVal_b8_setWidth (imm : BitVec 32) : immVal (imm.setWidth 64) .b8 = imm.signExtend 64 := by
  rw [immVal, BitVec.setWidth_setWidth_of_le imm (by decide), BitVec.setWidth_eq]

/-- Settles O33: each form is a store of its immediate, sign-extended for `movq` alone. -/
theorem immediateStoresWriteImmediate : Obligations.ImmediateStoresWriteImmediate := by
  intro rex m i8 i16 i32 s hwf
  have hnarrow {n : Size} (hn : sizeBytes n ≤ 4) (imm : Word) : lowBytes n (immVal imm n) = lowBytes n imm := by
    rw [immVal_narrow hn, lowBytes_lowBytes]
  exact ⟨emulateWrite_completes (hnarrow (by decide) _) hwf, emulateWrite_completes (hnarrow (by decide) _) hwf,
    emulateWrite_completes (hnarrow (by decide) _) hwf,
    emulateWrite_completes (congrArg (lowBytes .b8) (immVal_b8_setWidth i32)) hwf⟩

end Sys2Proof.Machine
end

/-! # A placed word

The 15 bytes stored at `rip` are those of the next capture, and the request placed with them is a valid call. -/

section
namespace Sys2Proof.Machine

variable {s : State} {nbits w : Nat} {ks : List Nat} {m : Memory}

/-- Offsets below 2^64 have addresses of their own. -/
theorem codeAddr_injective (s : State) {j k : Nat} (hj : j < 2 ^ 64) (hk : k < 2 ^ 64)
    (h : codeAddr s j = codeAddr s k) : j = k := by
  have hoffset := BitVec.add_right_inj s.rip |>.mp (BitVec.eq_of_toNat_eq h)
  simpa only [BitVec.toNat_ofNat, Nat.mod_eq_of_lt hj, Nat.mod_eq_of_lt hk] using congrArg BitVec.toNat hoffset

theorem wf_writeByte_codeAddr (hwf : Memory.wf m = true) (k : Nat) (b : Byte) :
    Memory.wf (writeByte m (codeAddr s k) b) = true :=
  wf_writeByte hwf (BitVec.isLt _)

theorem readByte_storeCode_other (hwf : Memory.wf m = true) {a : Nat} (ha : ∀ k ∈ ks, a ≠ codeAddr s k) :
    readByte (storeCode s nbits w ks m) a = readByte m a := by
  induction ks generalizing m with
  | nil => rfl
  | cons k ks ih =>
    obtain ⟨hhead, htail⟩ := List.forall_mem_cons.mp ha
    rw [storeCode, ih (wf_writeByte_codeAddr hwf k _) htail, readByte_writeByte hwf, if_neg hhead]

/-- Each listed offset holds its byte of the word; a repeated one is written twice with the same byte. -/
theorem readByte_storeCode (hwf : Memory.wf m = true) (hks : ∀ j ∈ ks, j < 2 ^ 64) {k : Nat} (hk : k ∈ ks) :
    readByte (storeCode s nbits w ks m) (codeAddr s k) = tableByte nbits w k := by
  induction ks generalizing m with
  | nil => cases hk
  | cons j ks ih =>
    obtain ⟨hj, htail⟩ := List.forall_mem_cons.mp hks
    rw [storeCode]
    by_cases hmem : k ∈ ks
    · exact ih (wf_writeByte_codeAddr hwf j _) htail hmem
    · obtain rfl : k = j := (List.mem_cons.mp hk).resolve_right hmem
      have hfresh : ∀ i ∈ ks, codeAddr s k ≠ codeAddr s i := fun i hi heq =>
        hmem (codeAddr_injective s hj (htail i hi) heq ▸ hi)
      rw [readByte_storeCode_other (wf_writeByte_codeAddr hwf k _) hfresh, readByte_writeByte_self m hwf]

theorem withFetchWord_code (s : State) (nbits w : Nat) :
    (s.withFetchWord nbits w).code = storeCode s nbits w (List.range Config.maxInstLen) s.code := by
  rw [State.withFetchWord]

theorem withFetchWord_rip (s : State) (nbits w : Nat) : (s.withFetchWord nbits w).rip = s.rip := by
  rw [State.withFetchWord]

/-- A placed word does not move the capture. -/
theorem codeAddr_withFetchWord (s : State) (nbits w k : Nat) :
    codeAddr (s.withFetchWord nbits w) k = codeAddr s k := by
  rw [codeAddr, codeAddr, withFetchWord_rip]

/-- Settles O51: the 15 offsets have addresses of their own, and the capture reads them where they were stored. -/
theorem placedWordIsCaptured : Obligations.PlacedWordIsCaptured := by
  intro s nbits w hwf
  constructor
  · intro k hk
    have hsmall : ∀ j ∈ List.range Config.maxInstLen, j < 2 ^ 64 := fun j hj =>
      (List.mem_range.mp hj).trans (by decide)
    rw [captured, Vector.getElem_ofFn, withFetchWord_code, codeAddr_withFetchWord]
    exact readByte_storeCode hwf hsmall (List.mem_range.mpr hk)
  · intro a ha
    rw [withFetchWord_code]
    exact readByte_storeCode_other hwf fun k hk => ha k (List.mem_range.mp hk)

theorem fullRequest_len_toNat (s : State) : (fullRequest s).len.toNat = 15 := rfl

theorem validCall_fullRequest (s t : State) : validCall (requestOf t (fullRequest s)) :=
  ⟨rfl, (by decide : 1 ≤ 15).trans (fullRequest_len_toNat s).ge, (fullRequest_len_toNat s).le⟩

/-- The bytes of the request placed with a word are the word laid out in a full buffer (log 26). -/
theorem bytes_requestOf_withFetchWord (hwf : Memory.wf s.code = true) :
    (requestOf (s.withFetchWord nbits w) (fullRequest s)).bytes =
      (List.range Config.maxInstLen).map (tableByte nbits w) := by
  refine List.ext_getElem (by simp [Request.bytes, requestOf, fullRequest_len_toNat]) fun k hk hk' => ?_
  have hlt : k < 15 := by simpa using hk'
  simpa [Request.bytes, requestOf] using (placedWordIsCaptured s nbits w hwf).1 k hlt

theorem decodeInstr_of_decodeTableWord {i : Instr} (h : decodeTableWord nbits w = some i) :
    (decodeInstr ((List.range Config.maxInstLen).map (tableByte nbits w))).map Prod.fst = .ok i := by
  unfold decodeTableWord at h
  split at h
  next hdecode => rw [hdecode, ← Option.some.inj h]; rfl
  next => cases h

/-- Settles O52: the placed request is a valid call whose bytes decode as the word does. -/
theorem stepRunsPlacedWord : Obligations.StepRunsPlacedWord := by
  intro s nbits w i hwf hword
  refine stepRunsDecodedInstruction _ (fullRequest s) s.traps i rfl rfl (validCall_fullRequest s _) ?_
  rw [bytes_requestOf_withFetchWord hwf]
  exact decodeInstr_of_decodeTableWord hword

end Sys2Proof.Machine
end

/-! # The typed failures

Every failure of stages 1 to 8 but `OutOfRange` is decided by bytes that are there, the last of them the byte that the
failing stage reads. `FailingHead` lists those bytes; what follows them does not matter, so a failure other than `OutOfRange`
stays when bytes are appended (60_exceptions.md R148 to R151, R153). -/

section
namespace Sys2Proof.Machine

variable {bs rest head : List Byte} {h66 : Bool} {rex : Option Rex} {op : Byte} {opc : Opcode} {e : Failure}

/-! ## When a stage fails -/

theorem response_bind_eq_error_iff {α β : Type} {x : Response α} {f : α → Response β} :
    x >>= f = .error e ↔ x = .error e ∨ ∃ a, x = .ok a ∧ f a = .error e := by
  cases x with
  | error e' => simp [bind, Except.bind]
  | ok a => simp [bind, Except.bind]

/-- Stage 1 leaves a `0x66` in front only if it has taken another (30_encoding.md R53). -/
theorem head_ne_of_takeOpsize (h : takeOpsize bs = (false, rest)) : rest.head? ≠ some 0x66#8 := by
  cases bs with
  | nil => cases h; simp
  | cons b bs =>
    rw [takeOpsize] at h
    split at h <;> cases h
    next hb => simpa using hb

theorem takeRex_eq_error_iff (he : e ≠ .outOfRange) : takeRex bs = .error e ↔
    ∃ p op rest, bs = Rex.toByte p :: op :: rest ∧ isRexByte op = true ∧ e = .unsupported := by
  constructor
  · intro h
    unfold takeRex at h
    split at h
    · cases h; contradiction
    next b bs =>
      split at h
      next hb =>
        split at h
        · cases h; contradiction
        next op rest =>
          split at h <;> cases h
          next hop => exact ⟨Rex.ofByte b, op, rest, by rw [rex_toByte_ofByte hb], hop, rfl⟩
      · cases h
  · rintro ⟨p, op, rest, rfl, hop, rfl⟩
    exact takeRex_rex_rex p hop rest

theorem checkSizeConflict_eq_error_iff : checkSizeConflict h66 rex = .error e ↔
    h66 = true ∧ rexW rex = true ∧ e = .unsupported := by
  cases h66 <;> cases hw : rexW rex <;> simp [checkSizeConflict, hw, @eq_comm _ e]

theorem takeOpcode_eq_error_iff (he : e ≠ .outOfRange) : takeOpcode op bs = .error e ↔ e = .unsupported ∧
    (op ≠ 0x0F#8 ∧ oneByteOpcode op = none ∨ op = 0x0F#8 ∧ ∃ op2 rest, bs = op2 :: rest ∧ twoByteOpcode op2 = none) := by
  by_cases hescape : op = 0x0F#8
  · cases bs with
    | nil => simp [takeOpcode, hescape, he.symm]
    | cons op2 bs => cases hmap : twoByteOpcode op2 <;> simp [takeOpcode, hescape, hmap, @eq_comm _ e]
  · cases hmap : oneByteOpcode op <;> simp [takeOpcode, hescape, hmap, @eq_comm _ e]

theorem checkOpsize_eq_error_iff : checkOpsize h66 opc = .error e ↔ h66 = true ∧
    ((opc = .opF6 ∨ opc = .op0FB7) ∧ e = .badState ∨ (opc = .op88 ∨ opc = .op8A ∨ opc = .opC6) ∧ e = .unsupported) := by
  cases h66 with
  | false => simp [checkOpsize]
  | true => cases opc <;> simp [checkOpsize, @eq_comm _ e]

theorem fixedReg_iff : opc.fixedReg = true ↔ opc = .opC6 ∨ opc = .opC7 ∨ opc = .opF6 := by
  cases opc <;> decide

theorem takeModRM_eq_error_iff (he : e ≠ .outOfRange) : takeModRM opc bs = .error e ↔ ∃ b rest, bs = b :: rest ∧
    ((ModRM.ofByte b).mod = 0b11#2 ∧ e = .unsupported ∨
      (ModRM.ofByte b).mod ≠ 0b11#2 ∧ opc.fixedReg = true ∧ (ModRM.ofByte b).reg ≠ 0#3 ∧ e = .invalidArgs) := by
  cases bs with
  | nil => simp [takeModRM, he.symm]
  | cons b bs =>
    by_cases hmod : (ModRM.ofByte b).mod = 0b11#2
    · simp [takeModRM, hmod, @eq_comm _ e]
    · by_cases hreg : opc.fixedReg = true ∧ (ModRM.ofByte b).reg ≠ 0#3
      · simp [takeModRM, hmod, hreg, @eq_comm _ e]
      · have hnot : ¬(opc.fixedReg = true ∧ (ModRM.ofByte b).reg ≠ 0#3 ∧ e = .invalidArgs) := fun h => hreg ⟨h.1, h.2.1⟩
        simp [takeModRM, hmod, hreg, hnot]

theorem takeSib_ne_error (he : e ≠ .outOfRange) (rm : BitVec 3) (bs : List Byte) : takeSib rm bs ≠ .error e := by
  unfold takeSib
  split_ifs
  · split <;> simp [he.symm]
  · simp

theorem takeDisp_ne_error (he : e ≠ .outOfRange) (n : Nat) (bs : List Byte) : takeDisp n bs ≠ .error e := by
  unfold takeDisp
  split <;> simp [he.symm]

theorem takeImm_ne_error (he : e ≠ .outOfRange) (n : Nat) (bs : List Byte) : takeImm n bs ≠ .error e := by
  unfold takeImm
  split <;> simp [he.symm]

theorem legacyHighByte_isSome_iff_le (field : BitVec 3) : (legacyHighByte field).isSome = true ↔ 4 ≤ field.toNat := by
  revert field
  decide

theorem checkHighByte_eq_error_iff {field : BitVec 3} : checkHighByte opc rex field = .error e ↔
    (opc = .op88 ∨ opc = .op8A) ∧ rex = none ∧ 4 ≤ field.toNat ∧ e = .unsupported := by
  rw [← legacyHighByte_isSome_iff_le]
  cases opc with
  | op88 | op8A =>
    cases rex with
    | none => by_cases h : (legacyHighByte field).isSome = true <;> simp [checkHighByte, h, @eq_comm _ e]
    | some p => simp [checkHighByte]
  | op89 | op8B | opC6 | opC7 | opF6 | op0FB6 | op0FB7 => simp [checkHighByte]

/-! ## Stages 4 to 8 -/

/-- Stages 4 to 8, on the bytes after the opcode (40_decoder.md R91 to R96). -/
def decodeOperands (h66 : Bool) (rex : Option Rex) (opc : Opcode) (bs : List Byte) : Response (Instr × List Byte) := do
  let (modrm, bs) ← takeModRM opc bs
  let (sib, bs) ← takeSib modrm.rm bs
  let (disp, bs) ← takeDisp (dispSize modrm.mod modrm.rm (sib.map Sib.base)) bs
  let (imm, bs) ← takeImm (immSize opc h66) bs
  checkHighByte opc rex modrm.reg
  return (form opc h66 rex modrm.reg ⟨modrm.mod, modrm.rm, sib, disp⟩ imm, bs)

theorem decodeOpcode_eq_bind (h66 : Bool) (rex : Option Rex) (op : Byte) (bs : List Byte) :
    decodeOpcode h66 rex op bs = checkSizeConflict h66 rex >>= fun _ => takeOpcode op bs >>= fun a =>
      checkOpsize h66 a.1 >>= fun _ => decodeOperands h66 rex a.1 a.2 := rfl

/-- Stages 4 to 8 fail on the ModRM byte, or on the register operand once everything before it is there. -/
theorem decodeOperands_eq_error_iff (he : e ≠ .outOfRange) : decodeOperands h66 rex opc bs = .error e ↔
    takeModRM opc bs = .error e ∨ ∃ (field : BitVec 3) (m : MemOperand) (v : Imm) (rest : List Byte),
      bs = ModRM.toByte ⟨m.mod, field, m.rm⟩ :: (sibBytes m.sib ++ (dispBytes m.disp ++ (v.bytes ++ rest))) ∧
      (opc.fixedReg = true → field = 0#3) ∧ memOk m = true ∧ v.size = immSize opc h66 ∧
      checkHighByte opc rex field = .error e := by
  simp only [decodeOperands, response_bind_eq_error_iff, Prod.exists, takeModRM_eq_ok_iff, takeSib_ne_error he,
    takeSib_eq_ok_iff, takeDisp_ne_error he, takeDisp_eq_ok_iff, takeImm_ne_error he, takeImm_eq_ok_iff, memOk_iff,
    false_or]
  refine or_congr_right ⟨?_, ?_⟩
  · rintro ⟨⟨mod, field, rm⟩, _, ⟨rfl, hmod, hreg⟩, sib, _, ⟨rfl, hsib⟩, disp, _, ⟨rfl, hdisp⟩, _, rest, ⟨v, rfl, hv, rfl⟩,
      h | ⟨_, -, ⟨⟩⟩⟩
    exact ⟨field, ⟨mod, rm, sib, disp⟩, v, rest, rfl, hreg, ⟨hmod, hsib, hdisp⟩, hv, h⟩
  · rintro ⟨field, ⟨mod, rm, sib, disp⟩, v, rest, rfl, hreg, ⟨hmod, hsib, hdisp⟩, hv, h⟩
    exact ⟨⟨mod, field, rm⟩, _, ⟨rfl, hmod, hreg⟩, sib, _, ⟨rfl, hsib⟩, disp, _, ⟨rfl, hdisp⟩, _, rest,
      ⟨v, rfl, hv, rfl⟩, .inl h⟩

/-- After any prefixes an opcode reaches stage 3b, unless the prefixes conflict. -/
theorem decodeInstr_opcodeBytes (h66 : Bool) (rex : Option Rex) (opc : Opcode) (bs : List Byte) :
    decodeInstr (opsizeBytes h66 ++ (rexBytes rex ++ (opcodeBytes opc ++ bs))) =
      checkSizeConflict h66 rex >>= fun _ => checkOpsize h66 opc >>= fun _ => decodeOperands h66 rex opc bs := by
  obtain ⟨op, ops, hops, hop, h⟩ := head_opcodeBytes opc
  have htake : takeOpcode op (ops ++ bs) = .ok (opc, bs) := takeOpcode_eq_ok_iff.mpr (by rw [hops, List.cons_append])
  rw [hops, List.cons_append, decodeInstr_prefixes hop fun h' => absurd h' h, decodeOpcode_eq_bind, htake]
  rfl

theorem decodeInstr_of_prefixesAccepted (h : prefixesAccepted h66 rex opc = true) (bs : List Byte) :
    decodeInstr (opsizeBytes h66 ++ (rexBytes rex ++ (opcodeBytes opc ++ bs))) = decodeOperands h66 rex opc bs := by
  obtain ⟨hconflict, hsize⟩ := prefixesAccepted_iff.mp h
  rw [decodeInstr_opcodeBytes, hconflict, hsize]
  rfl

/-- A failure of stage 3b is the decoder's, unless the size conflict of stage 2, an `Unsupported`, comes first. -/
theorem decodeInstr_of_checkOpsize (hsize : checkOpsize h66 opc = .error e)
    (h : rexW rex = false ∨ e = .unsupported) (bs : List Byte) :
    decodeInstr (opsizeBytes h66 ++ (rexBytes rex ++ (opcodeBytes opc ++ bs))) = .error e := by
  rw [decodeInstr_opcodeBytes, hsize]
  cases hconflict : checkSizeConflict h66 rex with
  | ok a => rfl
  | error e' =>
    obtain ⟨-, hw, rfl⟩ := checkSizeConflict_eq_error_iff.mp hconflict
    rw [h.resolve_left (by simp [hw])]
    rfl

/-! ## The bytes that decide a failure -/

/-- The bytes up to the one that decides a failure other than `OutOfRange`, case by case (60_exceptions.md R149 (a) to (f),
R150, R151). -/
inductive FailingHead : Failure → List Byte → Prop
  | secondRex (h66 : Bool) (p : Rex) (b : Byte) (hb : isRexByte b = true) :
    FailingHead .unsupported (opsizeBytes h66 ++ [p.toByte, b])
  | sizeConflict (p : Rex) (b : Byte) (hw : p.w = true) : FailingHead .unsupported [0x66#8, p.toByte, b]
  | opcode (h66 : Bool) (rex : Option Rex) (op : Byte) (hop : isRexByte op = false) (hmap : oneByteOpcode op = none)
    (hescape : op ≠ 0x0F#8) (h : op = 0x66#8 → h66 = true ∨ rex.isSome = true) :
    FailingHead .unsupported (opsizeBytes h66 ++ (rexBytes rex ++ [op]))
  | escapedOpcode (h66 : Bool) (rex : Option Rex) (op2 : Byte) (hmap : twoByteOpcode op2 = none) :
    FailingHead .unsupported (opsizeBytes h66 ++ (rexBytes rex ++ [0x0F#8, op2]))
  | opsizeOfByteForm (rex : Option Rex) (opc : Opcode) (hopc : opc = .op88 ∨ opc = .op8A ∨ opc = .opC6) :
    FailingHead .unsupported (0x66#8 :: (rexBytes rex ++ opcodeBytes opc))
  | opsizeContradiction (rex : Option Rex) (opc : Opcode) (hw : rexW rex = false) (hopc : opc = .opF6 ∨ opc = .op0FB7) :
    FailingHead .badState (0x66#8 :: (rexBytes rex ++ opcodeBytes opc))
  | registerForm (h66 : Bool) (rex : Option Rex) (opc : Opcode) (b : Byte) (h : prefixesAccepted h66 rex opc = true)
    (hmod : (ModRM.ofByte b).mod = 0b11#2) :
    FailingHead .unsupported (opsizeBytes h66 ++ (rexBytes rex ++ (opcodeBytes opc ++ [b])))
  | regField (h66 : Bool) (rex : Option Rex) (opc : Opcode) (b : Byte) (h : prefixesAccepted h66 rex opc = true)
    (hopc : opc = .opC6 ∨ opc = .opC7 ∨ opc = .opF6) (hmod : (ModRM.ofByte b).mod ≠ 0b11#2)
    (hreg : (ModRM.ofByte b).reg ≠ 0#3) :
    FailingHead .invalidArgs (opsizeBytes h66 ++ (rexBytes rex ++ (opcodeBytes opc ++ [b])))
  | highByte (opc : Opcode) (field : BitVec 3) (m : MemOperand) (hopc : opc = .op88 ∨ opc = .op8A) (hmem : memOk m = true)
    (hfield : 4 ≤ field.toNat) : FailingHead .unsupported (assemble false none (opcodeBytes opc) field m [])

theorem FailingHead.ne_outOfRange (h : FailingHead e head) : e ≠ .outOfRange := by
  cases h <;> simp

/-- The bytes begin with a head that decides the failure. -/
def FailsByHead (e : Failure) (bs : List Byte) : Prop :=
  ∃ head, FailingHead e head ∧ head <+: bs

/-- Whatever follows it, a failing head fails. -/
theorem decodeInstr_of_failingHead (h : FailingHead e head) (rest : List Byte) :
    decodeInstr (head ++ rest) = .error e := by
  have he := h.ne_outOfRange
  cases h with
  | secondRex h66 p b hb =>
    rw [List.append_assoc]
    exact decodeInstr_second_rex h66 p hb rest
  | sizeConflict p b hw => exact secondRexAndSizeConflictAreUnsupported.2 p b rest hw
  | opcode h66 rex op hop hmap hescape h =>
    rw [List.append_assoc, List.append_assoc, List.singleton_append, decodeInstr_prefixes hop h]
    exact decodeOpcode_of_takeOpcode ((takeOpcode_eq_error_iff he).mpr ⟨rfl, .inl ⟨hescape, hmap⟩⟩)
  | escapedOpcode h66 rex op2 hmap =>
    rw [List.append_assoc, List.append_assoc, List.cons_append, List.singleton_append,
      decodeInstr_prefixes (by decide) fun h => absurd h (by decide)]
    exact decodeOpcode_of_takeOpcode ((takeOpcode_eq_error_iff he).mpr ⟨rfl, .inr ⟨rfl, op2, rest, rfl, hmap⟩⟩)
  | opsizeOfByteForm rex opc hopc =>
    rw [List.cons_append, List.append_assoc]
    exact decodeInstr_of_checkOpsize (h66 := true) (checkOpsize_eq_error_iff.mpr ⟨rfl, .inr ⟨hopc, rfl⟩⟩) (.inr rfl) rest
  | opsizeContradiction rex opc hw hopc =>
    rw [List.cons_append, List.append_assoc]
    exact decodeInstr_of_checkOpsize (h66 := true) (checkOpsize_eq_error_iff.mpr ⟨rfl, .inl ⟨hopc, rfl⟩⟩) (.inl hw) rest
  | registerForm h66 rex opc b h hmod =>
    rw [List.append_assoc, List.append_assoc, List.append_assoc, decodeInstr_of_prefixesAccepted h,
      decodeOperands_eq_error_iff he, takeModRM_eq_error_iff he]
    exact .inl ⟨b, rest, rfl, .inl ⟨hmod, rfl⟩⟩
  | regField h66 rex opc b h hopc hmod hreg =>
    rw [List.append_assoc, List.append_assoc, List.append_assoc, decodeInstr_of_prefixesAccepted h,
      decodeOperands_eq_error_iff he, takeModRM_eq_error_iff he]
    exact .inl ⟨b, rest, rfl, .inr ⟨hmod, fixedReg_iff.mpr hopc, hreg, rfl⟩⟩
  | highByte opc field m hopc hmem hfield =>
    have hprefixes : prefixesAccepted false none opc = true := by obtain rfl | rfl := hopc <;> rfl
    have hfixed : opc.fixedReg = true → field = 0#3 := by obtain rfl | rfl := hopc <;> nofun
    have himm : Imm.none.size = immSize opc false := by obtain rfl | rfl := hopc <;> rfl
    rw [assemble, List.append_assoc, List.append_assoc, List.append_assoc, decodeInstr_of_prefixesAccepted hprefixes,
      decodeOperands_eq_error_iff he]
    refine .inr ⟨field, m, .none, rest, ?_, hfixed, hmem, himm, checkHighByte_eq_error_iff.mpr ⟨hopc, rfl, hfield, rfl⟩⟩
    simp [Imm.bytes]

/-! ## Every failure has its head -/

theorem failsByHead_of_decodeOperands (he : e ≠ .outOfRange) (hprefixes : prefixesAccepted h66 rex opc = true)
    (h : decodeOperands h66 rex opc bs = .error e) :
    FailsByHead e (opsizeBytes h66 ++ (rexBytes rex ++ (opcodeBytes opc ++ bs))) := by
  rw [decodeOperands_eq_error_iff he, takeModRM_eq_error_iff he] at h
  obtain ⟨b, rest, rfl, ⟨hmod, rfl⟩ | ⟨hmod, hfixed, hreg, rfl⟩⟩ | ⟨field, m, v, rest, rfl, -, hmem, hv, hhigh⟩ := h
  · exact ⟨_, .registerForm h66 rex opc b hprefixes hmod, rest, by simp⟩
  · exact ⟨_, .regField h66 rex opc b hprefixes (fixedReg_iff.mp hfixed) hmod hreg, rest, by simp⟩
  · obtain ⟨hopc, rfl, hfield, rfl⟩ := checkHighByte_eq_error_iff.mp hhigh
    obtain rfl : h66 = false := by obtain rfl | rfl := hopc <;> simpa [prefixesAccepted] using hprefixes
    have himm : v.bytes = [] := by
      rw [← List.length_eq_zero_iff, Imm.length_bytes, hv]
      obtain rfl | rfl := hopc <;> rfl
    exact ⟨_, .highByte opc field m hopc hmem hfield, rest, by simp [assemble, himm]⟩

theorem failsByHead_of_decodeOpcode (he : e ≠ .outOfRange) (hop : isRexByte op = false)
    (hfirst : op = 0x66#8 → h66 = true ∨ rex.isSome = true) (h : decodeOpcode h66 rex op bs = .error e) :
    FailsByHead e (opsizeBytes h66 ++ (rexBytes rex ++ op :: bs)) := by
  rw [decodeOpcode_eq_bind, response_bind_eq_error_iff] at h
  obtain h | ⟨_, hconflict, h⟩ := h
  · obtain ⟨rfl, hw, rfl⟩ := checkSizeConflict_eq_error_iff.mp h
    cases rex with
    | none => cases hw
    | some p => exact ⟨_, .sizeConflict p op hw, bs, rfl⟩
  rw [response_bind_eq_error_iff, takeOpcode_eq_error_iff he] at h
  obtain ⟨rfl, ⟨hescape, hmap⟩ | ⟨rfl, op2, rest, rfl, hmap⟩⟩ | ⟨⟨opc, rest⟩, hopc, h⟩ := h
  · exact ⟨_, .opcode h66 rex op hop hmap hescape hfirst, bs, by simp⟩
  · exact ⟨_, .escapedOpcode h66 rex op2 hmap, rest, by simp⟩
  rw [takeOpcode_eq_ok_iff.mp hopc]
  obtain h | ⟨_, hsize, h⟩ := response_bind_eq_error_iff.mp h
  · obtain ⟨rfl, ⟨hopc, rfl⟩ | ⟨hopc, rfl⟩⟩ := checkOpsize_eq_error_iff.mp h
    · have hw : rexW rex = false := by simpa [checkSizeConflict] using hconflict
      exact ⟨_, .opsizeContradiction rex opc hw hopc, rest, by simp [opsizeBytes]⟩
    · exact ⟨_, .opsizeOfByteForm rex opc hopc, rest, by simp [opsizeBytes]⟩
  · exact failsByHead_of_decodeOperands he (prefixesAccepted_iff.mpr ⟨hconflict, hsize⟩) h

theorem failsByHead_of_decodeInstr (he : e ≠ .outOfRange) (h : decodeInstr bs = .error e) : FailsByHead e bs := by
  obtain ⟨h66, bs', hopsize⟩ : ∃ h66 bs', takeOpsize bs = (h66, bs') := ⟨_, _, rfl⟩
  rw [decodeInstr_eq_takeRex_bind, hopsize, response_bind_eq_error_iff, takeRex_eq_error_iff he] at h
  rw [eq_of_takeOpsize hopsize]
  obtain ⟨p, op, rest, rfl, hop, rfl⟩ | ⟨⟨rex, op, rest⟩, hrex, h⟩ := h
  · exact ⟨_, .secondRex h66 p op hop, rest, by simp⟩
  · obtain ⟨rfl, hop⟩ := takeRex_eq_ok_iff.mp hrex
    refine failsByHead_of_decodeOpcode he hop (fun h66op => ?_) h
    cases h66 with
    | true => exact .inl rfl
    | false =>
      have hhead := head_ne_of_takeOpsize hopsize
      cases rex with
      | none => simp [rexBytes, h66op] at hhead
      | some p => exact .inr rfl

/-- A failure other than `OutOfRange` is decided by the bytes that the list of heads names, and by nothing after them. -/
theorem decodeInstr_eq_error_iff (he : e ≠ .outOfRange) : decodeInstr bs = .error e ↔ FailsByHead e bs := by
  refine ⟨failsByHead_of_decodeInstr he, ?_⟩
  rintro ⟨head, hhead, rest, rfl⟩
  exact decodeInstr_of_failingHead hhead rest

/-! ## An encoding cut short -/

theorem decodeInstr_append_of_ok {i : Instr} (h : decodeInstr bs = .ok (i, rest)) (more : List Byte) :
    decodeInstr (bs ++ more) = .ok (i, rest ++ more) := by
  obtain ⟨p, haccepted, rfl, rfl⟩ := parts_of_decodeInstr h
  rw [List.append_assoc, decodeInstr_bytes haccepted]

theorem decodeInstr_append_of_error (he : e ≠ .outOfRange) (h : decodeInstr bs = .error e) (more : List Byte) :
    decodeInstr (bs ++ more) = .error e := by
  obtain ⟨head, hhead, hprefix⟩ := (decodeInstr_eq_error_iff he).mp h
  exact (decodeInstr_eq_error_iff he).mpr ⟨head, hhead, hprefix.trans (List.prefix_append bs more)⟩

/-- Settles O5: any other answer on the first `n` bytes would stay when the bytes cut off are put back, but then the decoder
takes all of them for `i`. -/
theorem truncatedEncodingIsOutOfRange : Obligations.TruncatedEncodingIsOutOfRange := by
  intro i n hwf hn
  have hdecode : decodeInstr (encode i) = .ok (i, []) := by
    simpa using decodeOfEncodeReturnsInstruction i [] hwf
  obtain ⟨hlength, -, -⟩ := consumedLengthIsBounded.1 _ _ _ hdecode
  have hjoin : (encode i).take n ++ (encode i).drop n = encode i := List.take_append_drop n (encode i)
  cases htake : decodeInstr ((encode i).take n) with
  | ok a =>
    obtain ⟨i', rest⟩ := a
    have hall := decodeInstr_append_of_ok htake ((encode i).drop n)
    rw [hjoin, hdecode] at hall
    have hdrop : (encode i).drop n = [] := (List.append_eq_nil_iff.mp (Prod.mk.inj (Except.ok.inj hall)).2.symm).2
    rw [List.drop_eq_nil_iff, hlength] at hdrop
    exact absurd hn (Nat.not_lt.mpr hdrop)
  | error e =>
    by_cases he : e = .outOfRange
    · rw [he]
    · have hall := decodeInstr_append_of_error he htake ((encode i).drop n)
      rw [hjoin, hdecode] at hall
      cases hall

/-! ## The failures of a request -/

variable {q : Request}

theorem decodeRequest_of_absent (h : q.present = false ∨ q.len.toNat = 0) : decodeRequest q = .error .invalidInput :=
  if_pos (h.imp_right BitVec.eq_of_toNat_eq)

theorem decodeRequest_of_long (hpresent : q.present = true) (h : 15 < q.len.toNat) :
    decodeRequest q = .error .lengthExceeded := by
  have hcall : ¬(q.present = false ∨ q.len = 0) := not_or.mpr ⟨by simp [hpresent], one_le_len_iff.mp (by omega)⟩
  rw [decodeRequest, if_neg hcall, if_pos h]

/-- A request fails in the call validation, or its call is valid and its bytes fail (40_decoder.md R85, R86). -/
theorem respond_eq_error_iff_cases : respond q = .error e ↔
    (q.present = false ∨ q.len.toNat = 0) ∧ e = .invalidInput ∨
    (q.present = true ∧ 1 ≤ q.len.toNat ∧ 15 < q.len.toNat) ∧ e = .lengthExceeded ∨
    validCall q ∧ decodeInstr q.bytes = .error e := by
  rw [respond_eq_error_iff]
  cases hpresent : q.present with
  | false => simp [decodeRequest_of_absent (.inl hpresent), validCall, hpresent, @eq_comm _ e]
  | true =>
    by_cases hzero : q.len.toNat = 0
    · simp [decodeRequest_of_absent (.inr hzero), validCall, hzero, @eq_comm _ e]
    have hpos : 1 ≤ q.len.toNat := Nat.one_le_iff_ne_zero.mpr hzero
    by_cases hlong : 15 < q.len.toNat
    · have hvalid : ¬validCall q := fun ⟨_, _, hle⟩ => absurd hlong (Nat.not_lt.mpr hle)
      simp [decodeRequest_of_long hpresent hlong, hzero, hpos, hlong, hvalid, @eq_comm _ e]
    · have hvalid : validCall q := ⟨hpresent, hpos, Nat.le_of_not_lt hlong⟩
      rw [decodeRequest_of_validCall hvalid]
      cases decodeInstr q.bytes <;> simp [Except.map, hzero, hlong, hvalid]

theorem respond_eq_error_iff_failsByHead (he : e ∉ [.invalidInput, .lengthExceeded, .outOfRange]) :
    respond q = .error e ↔ validCall q ∧ FailsByHead e q.bytes := by
  simp only [List.mem_cons, List.not_mem_nil, or_false, not_or] at he
  obtain ⟨hinput, hlength, hrange⟩ := he
  simp only [respond_eq_error_iff_cases, hinput, hlength, and_false, false_or, decodeInstr_eq_error_iff hrange]

/-- No stage after the call validation answers one of its two failures. -/
theorem decodeInstr_ne_callFailure (bs : List Byte) :
    decodeInstr bs ≠ .error .invalidInput ∧ decodeInstr bs ≠ .error .lengthExceeded := by
  rw [ne_eq, ne_eq, decodeInstr_eq_error_iff (by decide), decodeInstr_eq_error_iff (by decide)]
  constructor
  · rintro ⟨_, ⟨⟩, -⟩
  · rintro ⟨_, ⟨⟩, -⟩

/-- Settles O11: only the call validation answers `InvalidInput`. -/
theorem invalidInputExactly : Obligations.InvalidInputExactly := by
  intro q
  simp [respond_eq_error_iff_cases, decodeInstr_ne_callFailure]

/-- Settles O12: only the call validation answers `LengthExceeded`. -/
theorem lengthExceededExactly : Obligations.LengthExceededExactly := by
  intro q
  simp [respond_eq_error_iff_cases, decodeInstr_ne_callFailure]

/-- Settles O13: one head answers `BadState`. -/
theorem badStateExactly : Obligations.BadStateExactly := by
  intro q
  rw [respond_eq_error_iff_failsByHead (by decide)]
  refine and_congr_right fun _ => ⟨?_, ?_⟩
  · rintro ⟨head, hhead, rest, hbytes⟩
    cases hhead with
    | opsizeContradiction rex opc hw hopc => exact ⟨rex, opc, rest, hw, hopc, by simp [← hbytes]⟩
  · rintro ⟨rex, opc, rest, hw, hopc, hbytes⟩
    exact ⟨_, .opsizeContradiction rex opc hw hopc, rest, by simp [hbytes]⟩

/-- Settles O14: one head answers `InvalidArgs`. -/
theorem invalidArgsExactly : Obligations.InvalidArgsExactly := by
  intro q
  rw [respond_eq_error_iff_failsByHead (by decide)]
  refine and_congr_right fun _ => ⟨?_, ?_⟩
  · rintro ⟨head, hhead, rest, hbytes⟩
    cases hhead with
    | regField h66 rex opc b h hopc hmod hreg =>
      exact ⟨h66, rex, opc, b, rest, hopc, h, by simp [← hbytes], hmod, hreg⟩
  · rintro ⟨h66, rex, opc, b, rest, hopc, h, hbytes, hmod, hreg⟩
    exact ⟨_, .regField h66 rex opc b h hopc hmod hreg, rest, by simp [hbytes]⟩

/-- Settles O15: the other heads answer `Unsupported`, one for each case of the statement. -/
theorem unsupportedExactly : Obligations.UnsupportedExactly := by
  intro q
  rw [respond_eq_error_iff_failsByHead (by decide)]
  refine and_congr_right fun _ => ⟨?_, ?_⟩
  · rintro ⟨head, hhead, rest, hbytes⟩
    rw [← hbytes]
    cases hhead with
    | secondRex h66 p b hb => exact .inl ⟨h66, p, b, rest, hb, by simp⟩
    | sizeConflict p b hw => exact .inr (.inl ⟨p, b, rest, hw, rfl⟩)
    | opcode h66 rex op hop hmap hescape h =>
      exact .inr (.inr (.inl ⟨h66, rex, op, rest, hop, hmap, hescape, h, by simp⟩))
    | escapedOpcode h66 rex op2 hmap => exact .inr (.inr (.inr (.inl ⟨h66, rex, op2, rest, hmap, by simp⟩)))
    | opsizeOfByteForm rex opc hopc => exact .inr (.inr (.inr (.inr (.inl ⟨rex, opc, rest, hopc, by simp⟩))))
    | registerForm h66 rex opc b h hmod =>
      exact .inr (.inr (.inr (.inr (.inr (.inl ⟨h66, rex, opc, b, rest, h, hmod, by simp⟩)))))
    | highByte opc field m hopc hmem hfield =>
      exact .inr (.inr (.inr (.inr (.inr (.inr ⟨opc, field, m, rest, hopc, hmem, hfield, rfl⟩)))))
  · rintro (⟨h66, p, b, rest, hb, hbytes⟩ | ⟨p, b, rest, hw, hbytes⟩ |
      ⟨h66, rex, op, rest, hop, hmap, hescape, h, hbytes⟩ | ⟨h66, rex, op2, rest, hmap, hbytes⟩ |
      ⟨rex, opc, rest, hopc, hbytes⟩ | ⟨h66, rex, opc, b, rest, h, hmod, hbytes⟩ |
      ⟨opc, field, m, rest, hopc, hmem, hfield, hbytes⟩) <;> rw [hbytes]
    · exact ⟨_, .secondRex h66 p b hb, rest, by simp⟩
    · exact ⟨_, .sizeConflict p b hw, rest, rfl⟩
    · exact ⟨_, .opcode h66 rex op hop hmap hescape h, rest, by simp⟩
    · exact ⟨_, .escapedOpcode h66 rex op2 hmap, rest, by simp⟩
    · exact ⟨_, .opsizeOfByteForm rex opc hopc, rest, by simp⟩
    · exact ⟨_, .registerForm h66 rex opc b h hmod, rest, by simp⟩
    · exact ⟨_, .highByte opc field m hopc hmem hfield, rest, rfl⟩

theorem statusCode_ne_seven (e : Failure) : statusCode e ≠ 7 := by
  cases e <;> decide

/-- Settles O18: a record's status is 0, a failure's its own code, and no code is 7. -/
theorem statusCodes : Obligations.StatusCodes := by
  refine ⟨fun _ => rfl, rfl, fun q => ?_⟩
  cases respond q with
  | ok r => exact (by decide : (0 : BitVec 3) ≠ 7)
  | error e => exact statusCode_ne_seven e

end Sys2Proof.Machine
end

/-! # The state at reset and the idle step -/

section
namespace Sys2Proof.Machine

/-! ## The state at reset -/

theorem getGpr_reset (r : Reg) : getGpr r State.reset = 0 :=
  Vector.getElem_replicate r.index.isLt

/-- No byte of the device is written before the first store (log 7). -/
theorem devByte_reset (a : Nat) : devByte State.reset a = 0 := rfl

/-- No byte of code is placed before the environment loads it (log 7, log 13). -/
theorem readByte_code_reset (a : Nat) : readByte State.reset.code a = 0 := rfl

/-- Settles O49: the memories at reset are canonical, `rflags` is bit 1 alone, and no access is recorded. -/
theorem resetMeetsInvariant : Obligations.ResetMeetsInvariant where
  codeWf := wf_reset.left
  cellsWf := wf_reset.right
  reservedOne := by decide
  traceFits := List.forall_mem_nil _

/-- Settles O50: the registers and the bytes of both memories by their lemmas, each other field by its value in `reset`. -/
theorem resetValues : Obligations.ResetValues :=
  ⟨getGpr_reset, rfl, rfl, rfl, rfl, rfl, devByte_reset, readByte_code_reset⟩

/-! ## The step with no request -/

/-- Settles O41: an empty list of requests has no response, and the step on it is the idle one. -/
theorem noRequestNoResponse : Obligations.NoRequestNoResponse :=
  fun _ hh ht => ⟨pendingResponse_of_traps_nil ht, step_of_idle hh ht⟩

end Sys2Proof.Machine
end

/-! # The spec's byte vectors -/

section
namespace Sys2Proof.Machine

theorem decodeInstr_of_encode_eq {i : Instr} {bytes : List Byte} (hwf : i.wf = true) (hbytes : encode i = bytes) :
    decodeInstr bytes = .ok (i, []) := by
  have h := decodeOfEncodeReturnsInstruction i [] hwf
  rwa [List.append_nil, hbytes] at h

/-- Settles O8: each vector is the encoding of its instruction, which is well formed, so it decodes to it. -/
theorem specVectorsDecode : Obligations.SpecVectorsDecode := by
  refine ⟨?_, ?_, ?_, ?_, ?_⟩ <;> exact decodeInstr_of_encode_eq (by decide) (by decide)

end Sys2Proof.Machine
end
